-- ==== Sys2Proof/Word.lean ====
section
/-! DEFINITION. The word the host and the core exchange: every register of the window is 32 bits wide (10_state.md R35 to R39). -/
namespace Sys2Proof

/-- A 32-bit register of the window, or a command word (10_state.md R35 to R39, 30_encoding.md R70). -/
abbrev Word := BitVec 32

/-- One byte lane of the host's bus (20_memory.md R53). -/
abbrev Byte := BitVec 8

end Sys2Proof
end

