-- ==== Sys2Proof/Syntax.lean ====
section
/-! DEFINITION. The commands of the core (30_encoding.md R70 to R72) and the command lines of its assembler (R75, R76). -/
namespace Sys2Proof

/-- The seven commands, one constructor per row of spec/opcode_table.json. Their operands are not in the word: they are
`ARG0..ARG4` when the word is written (30_encoding.md R70, R71). Only INIT and SETEN carry the `E` bit. -/
inductive Instr where
  /-- INIT: construction (40_configure.md R110). -/
  | init (e : Bool)
  /-- CONFIG: explicit reconfiguration (40_configure.md R116). -/
  | config
  /-- APPLY: one sampling tick (41_apply.md R153). -/
  | apply
  /-- RESTART: explicit restart request (42_control.md R190). -/
  | restart
  /-- SETEN: set the enablement flag (42_control.md R191). -/
  | seten (e : Bool)
  /-- RDADC: read the ADC resolution (42_control.md R192). -/
  | rdadc
  /-- RDWIDTH: read the register width (42_control.md R193). -/
  | rdwidth
  deriving DecidableEq, Repr

/-- A command line of the assembler with the numbers as written (30_encoding.md R75), the pseudo-commands included
(R76): `ENABLE`, `DISABLE`, and INIT without its last operand (`e = none`). -/
inductive AsmLine where
  | init (fc t coef0 adcBits n : Int) (e : Option Int)
  | config (fc t : Int)
  | apply (raw reqFc : Int)
  | restart
  | seten (e : Int)
  | rdadc
  | rdwidth
  | enable
  | disable
  deriving DecidableEq, Repr

end Sys2Proof
end

