-- ==== Sys2Proof/WellFormed.lean ====
section
/-! DEFINITION. Which commands and which command lines are well formed. -/
namespace Sys2Proof

/-- Every command has an encoding: its only field is the one-bit `E` (30_encoding.md R70, R72), and both values are
legal, so the check refuses nothing. -/
def Instr.wellFormed : Instr → Bool
  | .init _ => true
  | .config => true
  | .apply => true
  | .restart => true
  | .seten _ => true
  | .rdadc => true
  | .rdwidth => true

/-- A `u32` operand fits its field (30_encoding.md R75). -/
def fitsU32 (v : Int) : Bool := decide (0 ≤ v) && decide (v < 2 ^ 32)

/-- An `s32` operand fits its field (30_encoding.md R75). -/
def fitsS32 (v : Int) : Bool := decide (-2 ^ 31 ≤ v) && decide (v < 2 ^ 31)

/-- An `e` operand is 0 or 1 (30_encoding.md R75). -/
def fitsBit (v : Int) : Bool := decide (v = 0) || decide (v = 1)

/-- "An assembler refuses an operand that does not fit its field" (30_encoding.md R75). -/
def AsmLine.wellFormed : AsmLine → Bool
  | .init fc t coef0 adcBits n e =>
    fitsU32 fc && fitsU32 t && fitsU32 coef0 && fitsU32 adcBits && fitsU32 n && (e.map fitsBit).getD true
  | .config fc t => fitsU32 fc && fitsU32 t
  | .apply raw reqFc => fitsS32 raw && fitsU32 reqFc
  | .restart => true
  | .seten e => fitsBit e
  | .rdadc => true
  | .rdwidth => true
  | .enable => true
  | .disable => true

end Sys2Proof
end

