-- ==== Sys2Proof/Decode.lean ====
section
/-! DEFINITION. The command decoder, total on every 32-bit word (30_encoding.md R70, R72, R73), and the encoder. -/
namespace Sys2Proof

/-- Field `OP`, bits 7:0 (30_encoding.md R70). -/
def opField (w : Word) : BitVec 8 := w.extractLsb' 0 8

/-- Field `E`, bit 8 (30_encoding.md R70). -/
def eField (w : Word) : Bool := w.getLsbD 8

/-- Field `RSV`, bits 31:9 (30_encoding.md R70). -/
def rsvField (w : Word) : BitVec 23 := w.extractLsb' 9 23

/-- Why a word is illegal: the three kinds of 30_encoding.md R73. -/
inductive DecodeReject where
  /-- `OP` is 0x00 or 0x08 to 0xFF. -/
  | unknownOpcode
  /-- A bit of 31:9 is set. -/
  | reservedBitSet
  /-- Bit 8 is set and `OP` is neither INIT nor SETEN. -/
  | enableBitSet
  deriving DecidableEq, Repr

/-- The command a word encodes, or why it is illegal (30_encoding.md R72, R73). -/
def decode (w : Word) : Except DecodeReject Instr :=
  if rsvField w = 0 then
    match (opField w).toNat, eField w with
    | 0x01, e => .ok (.init e)
    | 0x02, false => .ok .config
    | 0x03, false => .ok .apply
    | 0x04, false => .ok .restart
    | 0x05, e => .ok (.seten e)
    | 0x06, false => .ok .rdadc
    | 0x07, false => .ok .rdwidth
    | op, _ => if op = 0 ∨ 0x07 < op then .error .unknownOpcode else .error .enableBitSet
  else .error .reservedBitSet

/-- The word of 30_encoding.md R70: `RSV ++ E ++ OP`. -/
def commandWord (op : BitVec 8) (e : Bool) : Word := 0#23 ++ BitVec.ofBool e ++ op

/-- The command word of a command (the `OP` column of 30_encoding.md R72). -/
def encode : Instr → Word
  | .init e => commandWord 0x01 e
  | .config => commandWord 0x02 false
  | .apply => commandWord 0x03 false
  | .restart => commandWord 0x04 false
  | .seten e => commandWord 0x05 e
  | .rdadc => commandWord 0x06 false
  | .rdwidth => commandWord 0x07 false

/-- The decoder on an opcode-table word of `nbits` bits whose bits are `w`; every command is one 32-bit word
(30_encoding.md R74), the bits above `nbits` are 0. -/
def decodeTableWord (nbits w : Nat) : Option Instr :=
  if nbits ≤ 32 ∧ w < 2 ^ nbits then
    match decode (BitVec.ofNat 32 w) with
    | .ok i => some i
    | .error _ => none
  else none

end Sys2Proof
end

