-- ==== Sys2Proof/Config.lean ====
section
/-! DEFINITION. The build parameters of the core (00_scope.md R8), fixed for the life of the hardware (10_state.md R41).
Which combinations a model accepts (R9) is `Params.legal` in Machine/Params.lean. -/
namespace Sys2Proof

/-- The two builds of the core (00_scope.md R3): `mul` multiplies by a lag coefficient, `shift` shifts. -/
inductive Variant where
  | mul
  | shift
  deriving DecidableEq, Repr

/-- The overflow predicate used for the cascade's subtraction (41_apply.md R142). -/
inductive SubOvfRule where
  | sameSign
  | twosComplementSub
  deriving DecidableEq, Repr

/-- The parameters of 00_scope.md R8, and `BASE` of 20_memory.md R50. `MASK` and `SHIFT_FREQS` are derived from these
(Machine/Params.lean). -/
structure Params where
  /-- `W`: width of the pole registers and of the datapath. -/
  w : Nat
  /-- `F`: number of fractional bits. -/
  f : Nat
  /-- `NPOLES_MAX`: capacity of the pole bank. -/
  npolesMax : Nat
  /-- `VARIANT`. -/
  variant : Variant
  /-- `LAG_K`: the constant of the coefficient derivation. -/
  lagK : Nat
  /-- `COEF_BIAS`: rounding bias of the coefficient derivation. -/
  coefBias : Nat
  /-- `CASCADE_BIAS`: rounding bias of the cascade's fractional product. -/
  cascadeBias : Nat
  /-- `REF_PERIOD`: the only sampling period the SHIFT variant accepts. -/
  refPeriod : Nat
  /-- `SHIFT_TABLE`: a (frequency, shift factor) pair for each frequency of `SHIFT_FREQS`, highest frequency first. -/
  shiftTable : List (Nat × Nat)
  /-- `SUB_OVF_RULE`. -/
  subOvfRule : SubOvfRule
  /-- `RESTART_ON_RECONFIG`. -/
  restartOnReconfig : Bool
  /-- `BASE`: where the platform places the register window. -/
  base : Nat
  deriving DecidableEq, Repr

/-- The values of 00_scope.md R8. `VARIANT` and `BASE` are OPEN there: this record takes `MUL` and 0.
DESIGN CHOICE (log 3); no statement about every state depends on it. -/
def Params.default : Params where
  w := 32
  f := 16
  npolesMax := 8
  variant := .mul
  lagK := 26986
  coefBias := 2 ^ 47
  cascadeBias := 2 ^ 15
  refPeriod := 50
  shiftTable := [(100, 5), (50, 6), (25, 7), (10, 8), (5, 9), (1, 12)]
  subOvfRule := .sameSign
  restartOnReconfig := false
  base := 0

end Sys2Proof
end

