-- ==== Sys2Proof/Machine/State.lean ====
section
/-! DEFINITION. The state of the core as plain data: every register of 10_state.md (R22 to R39), the build parameters it
was made with, and the host's accesses not yet performed. -/
namespace Sys2Proof.Machine

/-- A host access of the platform's bus (00_scope.md R14): `n` bytes at address `addr`. The register window is at
`BASE` (20_memory.md R50). A value is read only from an access of 4 bytes (R52), so it is a word. -/
inductive HostOp where
  | read (addr n : Nat)
  | write (addr n : Nat) (v : Word)
  deriving DecidableEq, Repr

/-- What the outside world does to the core, one event at a time. -/
inductive HostEvent where
  /-- The host agent numbered `agent` performs an access (10_state.md R20; one agent only, 20_memory.md R60). -/
  | access (agent : Nat) (op : HostOp)
  /-- The reset input is asserted (70_reset_and_hazards.md R250); `abandoned` is the access whose command was in
  progress, if one was. -/
  | reset (abandoned : Option HostOp)
  deriving DecidableEq, Repr

/-- The core's answer to an access: the model's own record (log 10). The bus error of 20_memory.md R52 is a `Fault`. -/
inductive BusResponse where
  | none
  /-- A write was accepted; of a `CMD` write, the command is complete (20_memory.md R57). -/
  | ack
  /-- A read returned these 32 bits. -/
  | data (w : Word)
  deriving DecidableEq, Repr

/-- The state of one core. -/
structure State where
  /-- The build parameters (00_scope.md R8). No step changes them (10_state.md R41; log 2). -/
  hw : Params
  /-- `POLE[0..NPOLES_MAX-1]`, each a W-bit signed value with F fractional bits (R22). -/
  poles : List Int
  /-- `N`, the pole count (R23). -/
  n : Nat
  /-- `FC`, the corner frequency (R24). -/
  fc : Word
  /-- `T`, the sampling period (R25). -/
  t : Word
  /-- `COEF`, the lag coefficient, below `2^F` (R26). -/
  coef : Nat
  /-- `SHIFT`, the shift factor, in `[0, W-1]` (R27); read and written in the SHIFT variant only (log 15). -/
  shift : Nat
  /-- `ADC_BITS` (R28). -/
  adcBits : Word
  /-- `EN` (R29). -/
  en : Bool
  /-- `RESTART` (R30). -/
  restart : Bool
  /-- `CFG_VALID` (R31). -/
  cfgValid : Bool
  /-- `INITED` (R32). -/
  inited : Bool
  /-- `ARG0` to `ARG4` (R35). -/
  arg0 : Word
  arg1 : Word
  arg2 : Word
  arg3 : Word
  arg4 : Word
  /-- `RES` (R36). -/
  res : Word
  /-- `STAT` (R37), as the host reads it. -/
  stat : Word
  /-- What the host (and the reset input) has still to do, oldest first: the host's program (R21; log 1). -/
  bus : List HostEvent
  /-- The answer to the last access (log 10). -/
  resp : BusResponse
  deriving DecidableEq, Repr

/-- Why the machine stops with a fault. -/
inductive Fault where
  /-- 20_memory.md R52: an access of the window of another width than 32 bits or at an offset that is no multiple of 4.
  Raised by `performOp`. The hardware answers a bus error and goes on, the model stops: safe (log 5). -/
  | busError
  deriving DecidableEq, Repr

/-- Why the machine has no meaning for what comes next. -/
inductive Refusal where
  /-- An instruction that has no meaning yet; no arm of `exec` is in this case. Safe. -/
  | notModelled (mnemonic : String)
  /-- An access outside the 64-byte window: "not the core's; the platform decides" (93_implementation_defined.md; 20_memory.md
  R50). Raised by `performOp`. Safe (log 6). -/
  | outsideWindow
  /-- The host's program has two host agents (20_memory.md R60: "a model refuses a program with two host agents").
  Raised by `performNext`. Safe (log 7). -/
  | twoHosts
  /-- The build parameters break a constraint of 00_scope.md R9. Raised by `performNext`. Safe (log 8). -/
  | illegalParameters
  deriving DecidableEq, Repr

/-- Every register of a core with parameters `p` at its reset value (70_reset_and_hazards.md R251), nothing pending.
`POLE`, `N`, `FC`, `T`, `COEF`, `SHIFT` and `ADC_BITS` have none in the spec: DESIGN CHOICE (log 4). -/
def State.resetWith (p : Params) : State where
  hw := p
  poles := List.replicate p.npolesMax 0
  n := 1
  fc := 0
  t := 0
  coef := 0
  shift := 0
  adcBits := 0
  en := false
  restart := true
  cfgValid := false
  inited := false
  arg0 := 0
  arg1 := 0
  arg2 := 0
  arg3 := 0
  arg4 := 0
  res := 0
  stat := 0x00000050
  bus := []
  resp := .none

/-- The core with the parameter values of 00_scope.md R8 right after reset (70_reset_and_hazards.md R251). -/
def State.reset : State := State.resetWith Params.default

end Sys2Proof.Machine
end

