-- ==== Sys2Proof/Machine/Params.lean ====
section
/-! DEFINITION. What follows from the build parameters: derived values, the shift table's lookup, and which parameters a
model accepts (00_scope.md R8, R9). -/
namespace Sys2Proof

/-- `MASK = 2^F - 1` (41_apply.md R144). -/
def Params.mask (p : Params) : Nat := 2 ^ p.f - 1

/-- `SHIFT_FREQS`: the frequencies the shift table lists (00_scope.md R8). -/
def Params.shiftFreqs (p : Params) : List Nat := p.shiftTable.map Prod.fst

/-- `SHIFT_TABLE[fc]`, none when `fc` is not in `SHIFT_FREQS` (40_configure.md R106, R107). -/
def Params.shiftFor (p : Params) (fc : Nat) : Option Nat := p.shiftTable.lookup fc

/-- "`SHIFT_TABLE` strictly increases as the frequency decreases" (00_scope.md R9). The list has the highest frequency
first, so the frequencies fall strictly along it and no frequency is listed twice. -/
def tableOrdered : List (Nat × Nat) → Bool
  | [] => true
  | [_] => true
  | a :: b :: rest => decide (b.1 < a.1) && decide (a.2 < b.2) && tableOrdered (b :: rest)

/-- The constraints of 00_scope.md R9. -/
def Params.meetsR9 (p : Params) : Bool :=
  decide (p.w = 2 * p.f) && decide (1 ≤ p.npolesMax) && p.shiftTable.all (fun e => decide (e.2 < p.w))
    && tableOrdered p.shiftTable && decide (0 < p.lagK)

/-- The bounds the registers' own widths put on the parameters, DEDUCED (log 8): `F` is at least 1; a W-bit value fits
the 32-bit `RES` (10_state.md R36); `N` fits the 8 bits of `STATE.N` (R38); a rounding bias is below the divisor it
rounds, else a derived `COEF` or a lag term would leave its range (00_scope.md R13). -/
def Params.fitsRegisters (p : Params) : Bool :=
  decide (1 ≤ p.f) && decide (p.w ≤ 32) && decide (p.npolesMax ≤ 255)
    && decide (p.coefBias < 2 ^ (p.w + p.f)) && decide (p.cascadeBias < 2 ^ (p.w - p.f))

/-- The parameters a step accepts (00_scope.md R9; log 8). -/
def Params.legal (p : Params) : Bool := p.meetsR9 && p.fitsRegisters

end Sys2Proof
end

