-- ==== Sys2Proof/Machine/Operands.lean ====
section
/-! DEFINITION. The number formats and operand forms: wrap-around, sign, arithmetic shift and mask (00_scope.md R10 to R12),
operand assembly (30_encoding.md R71), the input scaler (41_apply.md R143), the lag units (R144 to R148), byte lanes
(20_memory.md R53). -/
namespace Sys2Proof.Machine

/-- `wrap_W(v)`: the integer of `[-2^(W-1), 2^(W-1))` congruent to `v` modulo `2^W` (00_scope.md R11). -/
def wrap (w : Nat) (v : Int) : Int := Int.bmod v (2 ^ w)

/-- `v` is a W-bit signed value (00_scope.md R11). -/
abbrev InRange (w : Nat) (v : Int) : Prop := -2 ^ (w - 1) ≤ v ∧ v < 2 ^ (w - 1)

/-- `sgn(v)`: bit `W-1` of the W-bit pattern of `v` (00_scope.md R11). -/
def sgn (w : Nat) (v : Int) : Bool := decide (wrap w v < 0)

/-- `asr(v, s) = floor(v / 2^s)` (00_scope.md R12). -/
def asr (v : Int) (s : Nat) : Int := v / 2 ^ s

/-- `v & (2^F - 1) = v mod 2^F`, also for negative `v` (00_scope.md R12). -/
def maskLow (v : Int) (f : Nat) : Nat := (v % 2 ^ f).toNat

/-- `zext_32` of an operand register (30_encoding.md R71: a `u32` operand). -/
abbrev u32 (a : Word) : Nat := a.toNat

/-- `sext_32` of an operand register (30_encoding.md R71: an `s32` operand). -/
abbrev s32 (a : Word) : Int := a.toInt

/-- A signed W-bit value as the 32-bit pattern of `RES` (10_state.md R36). Where `W < 32` the sign fills the upper
bits: DEDUCED (log 9). -/
def resPattern (v : Int) : Word := BitVec.ofInt 32 v

/-- Input scaler: `s = wrap_W(raw * 2^F)`, unchecked (41_apply.md R143). -/
def scaleInput (p : Params) (raw : Int) : Int := wrap p.w (raw * 2 ^ p.f)

/-- Integer part of the difference, `ip = asr(d, F)` (41_apply.md R144). -/
def intPart (p : Params) (d : Int) : Int := asr d p.f

/-- Fractional part of the difference, `fp = d & MASK` (41_apply.md R144). -/
def fracPart (p : Params) (d : Int) : Nat := maskLow d p.f

/-- Integer term `it = ip * COEF`, exact (41_apply.md R145). -/
def intTerm (p : Params) (coef : Nat) (d : Int) : Int := intPart p d * coef

/-- Fractional term `ft = (fp * COEF + CASCADE_BIAS) >> (W - F)`, exact (41_apply.md R146). -/
def fracTerm (p : Params) (coef : Nat) (d : Int) : Nat :=
  (fracPart p d * coef + p.cascadeBias) / 2 ^ (p.w - p.f)

/-- Bit-shift approximation unit: `lag = asr(d, SHIFT)` (41_apply.md R148). -/
def shiftLag (shift : Nat) (d : Int) : Int := asr d shift

/-- Byte lane `k` of a register carries its bits `8k+7 : 8k` (20_memory.md R53). No access observes it. -/
def byteLane (v : Word) (k : Nat) : Byte := v.extractLsb' (8 * k) 8

end Sys2Proof.Machine
end

