-- ==== Sys2Proof/Machine/Flags.lean ====
section
/-! DEFINITION. The overflow predicates (41_apply.md R141, R142), the cause codes and the status and state words
(60_exceptions.md R221, 10_state.md R37, R38), the filter's state machine as a function of the flags (10_state.md R33). -/
namespace Sys2Proof.Machine

/-- `OVF(a, b, r)` (41_apply.md R141). -/
def ovf (w : Nat) (a b r : Int) : Bool := sgn w a == sgn w b && sgn w r != sgn w a

/-- `SubCheck(a, b, d)` for `d = wrap_W(a - b)` (41_apply.md R142). -/
def subCheck (p : Params) (a b d : Int) : Bool :=
  match p.subOvfRule with
  | .sameSign => ovf p.w a b d
  | .twosComplementSub => sgn p.w a != sgn p.w b && sgn p.w d != sgn p.w a

/-- The causes of `STAT.CAUSE` (60_exceptions.md R221). -/
inductive Cause where
  | none
  | disabled
  | configRejected
  | overflow
  | badArg
  | notInit
  | illegal
  deriving DecidableEq, Repr

/-- The cause codes (60_exceptions.md R221). -/
def Cause.code : Cause → BitVec 4
  | .none => 0
  | .disabled => 1
  | .configRejected => 2
  | .overflow => 3
  | .badArg => 4
  | .notInit => 5
  | .illegal => 6

/-- The word `report(cause, seed)` writes to `STAT` (00_scope.md R15, 10_state.md R37): `SEED` at bit 8, `CAUSE` at bits
7:4, `OK` at bit 0, the reserved bits 0. -/
def statWord (cause : Cause) (seed : Bool) : Word :=
  0#23 ++ BitVec.ofBool seed ++ cause.code ++ 0#3 ++ BitVec.ofBool (decide (cause = .none))

/-- `STAT.OK`, bit 0 (10_state.md R37). -/
def statOk (v : Word) : Bool := v.getLsbD 0

/-- `STAT.CAUSE`, bits 7:4 (10_state.md R37). -/
def statCause (v : Word) : BitVec 4 := v.extractLsb' 4 4

/-- `STAT.SEED`, bit 8 (10_state.md R37). -/
def statSeed (v : Word) : Bool := v.getLsbD 8

/-- The `VARIANT` bit of `STATE`: 0 for `MUL`, 1 for `SHIFT` (10_state.md R38). -/
def variantBit : Variant → Bool
  | .mul => false
  | .shift => true

/-- What a read of `STATE` returns (10_state.md R38). -/
def stateWord (s : State) : Word :=
  0#16 ++ BitVec.ofNat 8 (if s.inited then s.n else 0) ++ 0#3 ++ BitVec.ofBool (variantBit s.hw.variant)
    ++ BitVec.ofBool s.cfgValid ++ BitVec.ofBool s.restart ++ BitVec.ofBool s.en ++ BitVec.ofBool s.inited

/-- The states of the filter's state machine (10_state.md R33). -/
inductive FilterState where
  | disabled
  | enabledRestarting
  | enabledSteady
  deriving DecidableEq, Repr

/-- The filter's state, "defined only when `INITED = 1`" (10_state.md R33). -/
def filterState (s : State) : Option FilterState :=
  if s.inited then
    if s.en then (if s.restart then some .enabledRestarting else some .enabledSteady)
    else some .disabled
  else none

end Sys2Proof.Machine
end

