-- ==== Sys2Proof/Machine/Ops.lean ====
section
/-! DEFINITION. The shared operations over the registers: reporting a status, the configuration sub-operation, the cascade
with its recovery and seeding, and the register window. The core takes no exceptions and has no return from one
(60_exceptions.md R226, R227): `report` is what a failure does. -/
namespace Sys2Proof.Machine

/-! ### Reporting (00_scope.md R15) -/

/-- `report(cause, seed)`: the one write of `STAT` that ends every command (00_scope.md R15, 60_exceptions.md R220). -/
def State.report (s : State) (cause : Cause) (seed : Bool) : State := { s with stat := statWord cause seed }

/-- `RES <- v` (10_state.md R36). -/
def State.setRes (s : State) (v : Word) : State := { s with res := v }

/-! ### Configuration (40_configure.md R100 to R108) -/

/-- `Commit(fc, T)` (40_configure.md R105). -/
def commit (fc t : Word) (s : State) : State :=
  { s with fc := fc, t := t, cfgValid := true, restart := s.restart || s.hw.restartOnReconfig }

/-- The exact product `accum = LAG_K * fc * T` (40_configure.md R102). -/
abbrev accumOf (p : Params) (fc t : Nat) : Nat := p.lagK * fc * t

/-- The coefficient derived from `accum`, none where R101 or R102 rejects it (40_configure.md R101 to R104). The
subtraction is exact: `accum < 2^W` there. -/
def deriveCoef (p : Params) (fc t : Nat) : Option Nat :=
  if fc = 0 ∨ t = 0 ∨ 2 ^ p.w ≤ accumOf p fc t then none
  else some ((accumOf p fc t * (2 ^ p.w - accumOf p fc t) + p.coefBias) / 2 ^ (p.w + p.f))

/-- `Configure_MUL(fc, T)` (40_configure.md R101 to R104); none is "returns false", with no register written (R108). -/
def configureMul (fc t : Word) (s : State) : Option State :=
  match deriveCoef s.hw (u32 fc) (u32 t) with
  | none => none
  | some c => some (commit fc t { s with coef := c })

/-- The shift factor of a supported pair: `T = REF_PERIOD` and `fc` in `SHIFT_FREQS` (40_configure.md R106, R107, R113). -/
def deriveShift (p : Params) (fc t : Nat) : Option Nat :=
  if t = p.refPeriod then p.shiftFor fc else none

/-- `Configure_SHIFT(fc, T)` (40_configure.md R106, R107); none is "returns false" (R108). -/
def configureShift (fc t : Word) (s : State) : Option State :=
  match deriveShift s.hw (u32 fc) (u32 t) with
  | none => none
  | some k => some (commit fc t { s with shift := k })

/-- `Configure(fc, T)` (40_configure.md R100): none is "returns false", and then no register is written (R108). -/
def configure (fc t : Word) (s : State) : Option State :=
  match s.hw.variant with
  | .mul => configureMul fc t s
  | .shift => configureShift fc t s

/-- Step 3 of APPLY is due: the requested frequency differs from `FC`, or `CFG_VALID = 0` (41_apply.md R153). -/
def reconfigureDue (reqFc : Word) (s : State) : Bool := decide (reqFc ≠ s.fc) || !s.cfgValid

/-- Step 3 of APPLY: where it is due, `Configure` with the stored `T` (41_apply.md R153, 40_configure.md R117). -/
def reconfigure (reqFc : Word) (s : State) : Option State :=
  if reconfigureDue reqFc s then configure reqFc s.t s else some s

/-! ### The cascade (41_apply.md R140 to R152) -/

/-- The checks of one stage, in the order they are made (60_exceptions.md R224). No register records which one fired
(92_eei_decisions.md D39). -/
inductive StageCheck where
  | subtraction
  | lagAddition
  | poleAddition
  deriving DecidableEq, Repr

/-- The lag value of a difference `d` (41_apply.md R147 for MUL, R148 for SHIFT). -/
def lagValue (p : Params) (coef shift : Nat) (d : Int) : Except StageCheck Int :=
  match p.variant with
  | .mul =>
    if ovf p.w (intTerm p coef d) (fracTerm p coef d) (wrap p.w (intTerm p coef d + fracTerm p coef d))
    then .error .lagAddition
    else .ok (wrap p.w (intTerm p coef d + fracTerm p coef d))
  | .shift => .ok (shiftLag shift d)

/-- Pole adder: `np = wrap_W(lag + p)`, checked (41_apply.md R149). -/
def addPole (p : Params) (lag pole : Int) : Except StageCheck Int :=
  if ovf p.w lag pole (wrap p.w (lag + pole)) then .error .poleAddition else .ok (wrap p.w (lag + pole))

/-- One stage: the new pole from the stage's input `cur` and its pole, or the first check that fires (41_apply.md R150). -/
def stage (p : Params) (coef shift : Nat) (cur pole : Int) : Except StageCheck Int :=
  if subCheck p cur pole (wrap p.w (cur - pole)) then .error .subtraction
  else
    match lagValue p coef shift (wrap p.w (cur - pole)) with
    | .error c => .error c
    | .ok lag => addPole p lag pole

/-- The loop of 41_apply.md R150 over the poles from a stage on: the new poles and the last stage's output, or the first
check that fires. -/
def cascadePoles (p : Params) (coef shift : Nat) : List Int → Int → Except StageCheck (List Int × Int)
  | [], cur => .ok ([], cur)
  | pole :: rest, cur =>
    match stage p coef shift cur pole with
    | .error c => .error c
    | .ok np =>
      match cascadePoles p coef shift rest np with
      | .error c => .error c
      | .ok (nps, out) => .ok (np :: nps, out)

/-- Write `v` to every `POLE[0..N-1]`; the poles from `N` on are never written (10_state.md R22, 41_apply.md R159). -/
def setActivePoles (v : Int) (s : State) : State :=
  { s with poles := (s.poles.take s.n).map (fun _ => v) ++ s.poles.drop s.n }

/-- `Recover(s)`, overflow recovery (41_apply.md R151). -/
def recover (sc : Int) (s : State) : State :=
  ({ setActivePoles sc s with restart := true }.setRes (resPattern sc)).report .overflow false

/-- The seed tick (41_apply.md R152); `RES` holds the scaled input already (step 1 of R153). -/
def seedTick (sc : Int) (s : State) : State :=
  { setActivePoles sc s with restart := false }.report .none true

/-- `Cascade(s)` (41_apply.md R150). -/
def cascade (sc : Int) (s : State) : State :=
  match cascadePoles s.hw s.coef s.shift (s.poles.take s.n) sc with
  | .error _ => recover sc s
  | .ok (nps, out) => ({ s with poles := nps ++ s.poles.drop s.n }.setRes (resPattern out)).report .none false

/-! ### The register window (20_memory.md R50 to R54) -/

/-- Where an access falls (20_memory.md R50, R52). -/
inductive Place where
  /-- An admitted access: 4 bytes at this offset, a multiple of 4 below 64. -/
  | reg (off : Nat)
  /-- An access of the window that R52 does not admit. -/
  | misaccess
  /-- An access that does not start in the window (log 6). -/
  | outside
  deriving DecidableEq, Repr

/-- Classify an access of `n` bytes at platform address `addr` (20_memory.md R50, R52). -/
def locate (p : Params) (addr n : Nat) : Place :=
  if addr < p.base ∨ p.base + 64 ≤ addr then .outside
  else if n = 4 ∧ (addr - p.base) % 4 = 0 then .reg (addr - p.base)
  else .misaccess

/-- What a 32-bit read of the window returns (20_memory.md R51, R54; 10_state.md R39: `CMD` reads 0). -/
def windowRead (s : State) (off : Nat) : Word :=
  match off with
  | 0x04 => s.arg0
  | 0x08 => s.arg1
  | 0x0C => s.arg2
  | 0x10 => s.arg3
  | 0x14 => s.arg4
  | 0x18 => s.res
  | 0x1C => s.stat
  | 0x20 => stateWord s
  | _ => 0

/-- A 32-bit write of a register other than `CMD`: the `ARG` registers store it, every other offset ignores it
(20_memory.md R51, R54; 10_state.md R35). -/
def windowWrite (off : Nat) (v : Word) (s : State) : State :=
  match off with
  | 0x04 => { s with arg0 := v }
  | 0x08 => { s with arg1 := v }
  | 0x0C => { s with arg2 := v }
  | 0x10 => { s with arg3 := v }
  | 0x14 => { s with arg4 := v }
  | _ => s

end Sys2Proof.Machine
end

