-- ==== Sys2Proof/Machine/Apply.lean ====
section
/-! DEFINITION. The arithmetic family: APPLY, one sampling tick (41_apply.md R153). -/
namespace Sys2Proof.Machine

/-- The scaled input of the tick, `s` of 41_apply.md R153 step 1: `raw = sext_32(ARG0)` through the scaler of R143. -/
def tickInput (s : State) : Int := scaleInput s.hw (s32 s.arg0)

/-- Steps 2 to 5 of APPLY, with `RES` already holding the scaled input `sc`; the checks in the order of 60_exceptions.md
R224 (41_apply.md R153). -/
def tickAfterScaling (sc : Int) (s : State) : State :=
  if s.inited = false then s.report .notInit false
  else if s.en = false then s.report .disabled false
  else
    match reconfigure s.arg1 s with
    | none => s.report .configRejected false
    | some s' => if s'.restart then seedTick sc s' else cascade sc s'

/-- APPLY: one sampling tick (41_apply.md R153). -/
def execApply (s : State) : Host.Outcome State Fault Refusal :=
  .next (tickAfterScaling (tickInput s) (s.setRes (resPattern (tickInput s))))

end Sys2Proof.Machine
end

