-- ==== Sys2Proof/Machine/Configure.lean ====
section
/-! DEFINITION. The configuration family: INIT and CONFIG (40_configure.md R110 to R117). -/
namespace Sys2Proof.Machine

/-- INIT's argument check (40_configure.md R110, R111). -/
def initRejects (s : State) : Bool :=
  decide (u32 s.arg0 = 0) || decide (u32 s.arg1 = 0) || decide (2 ^ s.hw.f ≤ u32 s.arg2)
    || decide (u32 s.arg4 < 1) || decide (s.hw.npolesMax < u32 s.arg4)

/-- The registers a successful INIT writes in both variants (40_configure.md R110). -/
def initRegisters (e : Bool) (s : State) : State :=
  { s with
    fc := s.arg0, t := s.arg1, coef := u32 s.arg2, adcBits := s.arg3, n := u32 s.arg4,
    en := e, restart := true, inited := true }

/-- INIT's choice of `CFG_VALID`, and of `SHIFT` in the SHIFT variant (40_configure.md R112, R113). -/
def initConfigured (s : State) : State :=
  match s.hw.variant with
  | .mul => { s with cfgValid := true }
  | .shift =>
    match deriveShift s.hw (u32 s.fc) (u32 s.t) with
    | some k => { s with shift := k, cfgValid := true }
    | none => { s with cfgValid := false }

/-- INIT: construction (40_configure.md R110). -/
def execInit (e : Bool) (s : State) : Host.Outcome State Fault Refusal :=
  if initRejects s then .next (s.report .badArg false)
  else .next ((initConfigured (initRegisters e s)).report .none false)

/-- CONFIG: explicit reconfiguration (40_configure.md R116), whatever `EN` is. -/
def execConfig (s : State) : Host.Outcome State Fault Refusal :=
  if s.inited = false then .next (s.report .notInit false)
  else
    match configure s.arg0 s.arg1 s with
    | some s' => .next (s'.report .none false)
    | none => .next (s.report .configRejected false)

end Sys2Proof.Machine
end

