-- ==== Sys2Proof/Machine/Control.lean ====
section
/-! DEFINITION. The control family: RESTART, SETEN, RDADC, RDWIDTH (42_control.md R190 to R193), and what an illegal word
does (60_exceptions.md R222). -/
namespace Sys2Proof.Machine

/-- RESTART: explicit restart request (42_control.md R190). -/
def execRestart (s : State) : Host.Outcome State Fault Refusal :=
  if s.inited = false then .next (s.report .notInit false)
  else .next ({ s with restart := true }.report .none false)

/-- SETEN: set the enablement flag; enabling a disabled core restarts it (42_control.md R191). -/
def execSeten (e : Bool) (s : State) : Host.Outcome State Fault Refusal :=
  if s.inited = false then .next (s.report .notInit false)
  else if e = true ∧ s.en = false then .next ({ s with en := true, restart := true }.report .none false)
  else if e = false then .next ({ s with en := false }.report .none false)
  else .next (s.report .none false)

/-- RDADC: read the ADC resolution (42_control.md R192). -/
def execRdadc (s : State) : Host.Outcome State Fault Refusal :=
  if s.inited = false then .next (s.report .notInit false)
  else .next ((s.setRes s.adcBits).report .none false)

/-- RDWIDTH: read the register width, also before INIT (42_control.md R193). -/
def execRdwidth (s : State) : Host.Outcome State Fault Refusal :=
  .next ((s.setRes (BitVec.ofNat 32 s.hw.w)).report .none false)

/-- An illegal word performs `report(ILLEGAL)` and nothing else, whatever `INITED` is (60_exceptions.md R222). -/
def execIllegal (s : State) : Host.Outcome State Fault Refusal := .next (s.report .illegal false)

end Sys2Proof.Machine
end

