-- ==== Sys2Proof/Machine/Dispatch.lean ====
section
/-! DEFINITION. One arm per command, in the order of spec/opcode_table.json. -/
namespace Sys2Proof.Machine

/-- Executes one command against the current registers (20_memory.md R57). -/
def exec (i : Instr) (s : State) : Host.Outcome State Fault Refusal :=
  match i with
  | .init e => Sys2Proof.Machine.execInit e s
  | .config => Sys2Proof.Machine.execConfig s
  | .apply => Sys2Proof.Machine.execApply s
  | .restart => Sys2Proof.Machine.execRestart s
  | .seten e => Sys2Proof.Machine.execSeten e s
  | .rdadc => Sys2Proof.Machine.execRdadc s
  | .rdwidth => Sys2Proof.Machine.execRdwidth s

end Sys2Proof.Machine
end

