-- ==== Sys2Proof/Machine/Bus.lean ====
section
/-! DEFINITION. What a host access or an assertion of the reset input does (20_memory.md R50 to R60,
70_reset_and_hazards.md R250): the core "fetches" a command word when the host writes it to CMD. -/
namespace Sys2Proof.Machine

/-- A full-word write of `v` to `CMD` starts the command `v` encodes, and completes it (10_state.md R39, 20_memory.md R57). -/
def runCommand (v : Word) (s : State) : Host.Outcome State Fault Refusal :=
  match decode v with
  | .ok i => exec i s
  | .error _ => execIllegal s

/-- An admitted write at offset `off` (20_memory.md R51, R54, R55). -/
def performWrite (off : Nat) (v : Word) (s : State) : Host.Outcome State Fault Refusal :=
  if off = 0x00 then runCommand v { s with resp := .ack }
  else .next (windowWrite off v { s with resp := .ack })

/-- One host access. An access of the window that R52 does not admit is "a fault of the host's step"; one outside the
window is not the core's (20_memory.md R50, R52; 93_implementation_defined.md). -/
def performOp (op : HostOp) (s : State) : Host.Outcome State Fault Refusal :=
  match op with
  | .read addr n =>
    match locate s.hw addr n with
    | .reg off => .next { s with resp := .data (windowRead s off) }
    | .misaccess => .fault .busError
    | .outside => .refused .outsideWindow
  | .write addr n v =>
    match locate s.hw addr n with
    | .reg off => performWrite off v s
    | .misaccess => .fault .busError
    | .outside => .refused .outsideWindow

/-- The reset input: every register at its reset value, the command in progress abandoned with none of its writes
performed (70_reset_and_hazards.md R250). The parameters and what the host does next are not the core's registers. -/
def assertReset (s : State) : State := { State.resetWith s.hw with bus := s.bus }

/-- One event of the outside world. -/
def performEvent (ev : HostEvent) (s : State) : Host.Outcome State Fault Refusal :=
  match ev with
  | .access _ op => performOp op s
  | .reset _ => .next (assertReset s)

/-- The host agent of the first pending access. -/
def hostAgent : List HostEvent → Option Nat
  | [] => none
  | .access a _ :: _ => some a
  | .reset _ :: rest => hostAgent rest

/-- Every pending access is of the agent `a`. -/
def allOfAgent (a : Nat) : List HostEvent → Bool
  | [] => true
  | .access b _ :: rest => decide (b = a) && allOfAgent a rest
  | .reset _ :: rest => allOfAgent a rest

/-- The program has one host agent at most (20_memory.md R60). -/
def oneHost (evs : List HostEvent) : Bool :=
  match hostAgent evs with
  | none => true
  | some a => allOfAgent a evs

/-- Perform the next event, in the host's program order (20_memory.md R57, R58). With nothing pending the core "holds its
state and does nothing" (60_exceptions.md R234). Illegal parameters (00_scope.md R9) and a program with two host agents
(20_memory.md R60) are refused. -/
def performNext (s : State) : Host.Outcome State Fault Refusal :=
  if s.hw.legal = false then .refused .illegalParameters
  else if oneHost s.bus = false then .refused .twoHosts
  else
    match s.bus with
    | [] => .next s
    | ev :: rest => performEvent ev { s with bus := rest }

/-- The host's write of a command word to `CMD` (20_memory.md R51), by the host agent of `s`'s program. -/
def commandWrite (s : State) (v : Word) : HostEvent :=
  .access ((hostAgent s.bus).getD 0) (.write s.hw.base 4 v)

end Sys2Proof.Machine
end

