-- ==== Sys2Proof/Machine/Step.lean ====
section
/-! DEFINITION. The step: the next access of the host is performed (20_memory.md R57). -/
namespace Sys2Proof.Machine

/-- One step: the core performs the next event of the host's program (20_memory.md R57, R58). -/
def step (s : State) : Host.Outcome State Fault Refusal := performNext s

/-- `s` with the command word `w` as the host's next access, a full-word write to `CMD`: the core fetches nothing
(10_state.md R21), so this is where its next instruction comes from (log 1). -/
def State.withFetchWord (s : State) (nbits w : Nat) : State :=
  { s with bus := commandWrite s (BitVec.ofNat 32 (w % 2 ^ nbits)) :: s.bus }

end Sys2Proof.Machine
end

