-- ==== Sys2Proof/Machine/Assembler.lean ====
section
/-! DEFINITION. The assembler: command lines as text (30_encoding.md R75), the pseudo-commands (R76), and the host writes a
line stands for (R77). -/
namespace Sys2Proof.Machine

/-! ### From a command line to host writes (R76, R77) -/

/-- The expansion of a pseudo-command; every other line is its own (30_encoding.md R76). -/
def expandPseudo : AsmLine → AsmLine
  | .init fc t coef0 adcBits n none => .init fc t coef0 adcBits n (some 1)
  | .enable => .seten 1
  | .disable => .seten 0
  | l => l

/-- The command of a line (30_encoding.md R72, R76). -/
def lineInstr (l : AsmLine) : Instr :=
  match expandPseudo l with
  | .init _ _ _ _ _ e => .init (decide (e = some 1))
  | .config _ _ => .config
  | .apply _ _ => .apply
  | .restart => .restart
  | .seten e => .seten (decide (e = 1))
  | .rdadc => .rdadc
  | .rdwidth => .rdwidth
  | .enable => .seten true
  | .disable => .seten false

/-- The values of `ARG0`, `ARG1`, … of a line, in the order of 30_encoding.md R71. -/
def lineOperands : AsmLine → List Int
  | .init fc t coef0 adcBits n _ => [fc, t, coef0, adcBits, n]
  | .config fc t => [fc, t]
  | .apply raw reqFc => [raw, reqFc]
  | .restart => []
  | .seten _ => []
  | .rdadc => []
  | .rdwidth => []
  | .enable => []
  | .disable => []

/-- The writes of operands `k`, `k+1`, … to `BASE + 0x04 + 4k`, each as its two's-complement pattern (30_encoding.md R77). -/
def operandWrites (base : Nat) : Nat → List Int → List HostOp
  | _, [] => []
  | k, v :: rest => .write (base + 0x04 + 4 * k) 4 (BitVec.ofInt 32 v) :: operandWrites base (k + 1) rest

/-- The host writes of a line: its operands, then its command word (30_encoding.md R77); none where the assembler refuses
an operand (R75). A host may omit the write of an `ARG` that already holds the value; the assembler writes them all. -/
def assembleLine (p : Params) (l : AsmLine) : Option (List HostOp) :=
  if l.wellFormed
  then some (operandWrites p.base 0 (lineOperands l) ++ [.write p.base 4 (encode (lineInstr l))])
  else none

/-! ### From text to command lines (R75); the spelling of blanks and empty lines is the model's (log 14) -/

/-- Why the assembler refuses a text. -/
inductive AsmError where
  | unknownMnemonic
  | operandCount
  | badNumber
  | operandDoesNotFit
  deriving DecidableEq, Repr

/-- A blank inside a line. -/
def isBlank (c : Char) : Bool := c == ' ' || c == '\t' || c == '\r'

/-- A text without the blanks around it. -/
def trim (cs : List Char) : List Char := ((cs.dropWhile isBlank).reverse.dropWhile isBlank).reverse

/-- The pieces of a text between separators. -/
def splitAtChar (sep : Char) : List Char → List (List Char)
  | [] => [[]]
  | c :: rest =>
    match splitAtChar sep rest with
    | [] => [[]]
    | piece :: pieces => if c = sep then [] :: piece :: pieces else (c :: piece) :: pieces

/-- The value of a digit in a radix of at most 16. -/
def digitValue (radix : Nat) (c : Char) : Option Nat :=
  let v := if '0' ≤ c ∧ c ≤ '9' then some (c.toNat - '0'.toNat)
    else if 'a' ≤ c ∧ c ≤ 'f' then some (c.toNat - 'a'.toNat + 10)
    else if 'A' ≤ c ∧ c ≤ 'F' then some (c.toNat - 'A'.toNat + 10) else none
  v.filter (fun d => decide (d < radix))

/-- Digits read on from the value `acc`. -/
def digitsFrom (radix acc : Nat) : List Char → Option Nat
  | [] => some acc
  | c :: rest =>
    match digitValue radix c with
    | some d => digitsFrom radix (acc * radix + d) rest
    | none => none

/-- A number of at least one digit. -/
def parseDigits (radix : Nat) : List Char → Option Nat
  | [] => none
  | cs => digitsFrom radix 0 cs

/-- "numbers are decimal (optionally signed) or hexadecimal with `0x`" (30_encoding.md R75). Which characters are the sign is
left open: DESIGN CHOICE (log 14), `+`, the hyphen-minus `-`, and U+2212, the minus sign that 95_test_vectors.md prints. -/
def parseNumber : List Char → Option Int
  | '0' :: 'x' :: ds => (parseDigits 16 ds).map Int.ofNat
  | '-' :: ds => (parseDigits 10 ds).map (fun v => -Int.ofNat v)
  | '\u2212' :: ds => (parseDigits 10 ds).map (fun v => -Int.ofNat v)
  | '+' :: ds => (parseDigits 10 ds).map Int.ofNat
  | ds => (parseDigits 10 ds).map Int.ofNat

/-- Every piece as a number. -/
def parseNumbers : List (List Char) → Option (List Int)
  | [] => some []
  | piece :: rest =>
    match parseNumber (trim piece), parseNumbers rest with
    | some v, some vs => some (v :: vs)
    | _, _ => none

/-- The operand list after a mnemonic: numbers between commas, or nothing (30_encoding.md R75). -/
def parseOperands (cs : List Char) : Option (List Int) :=
  if trim cs = [] then some [] else parseNumbers (splitAtChar ',' cs)

/-- A line from its mnemonic and operands (30_encoding.md R75, R76). -/
def lineOf (mnemonic : List Char) (ops : List Int) : Except AsmError AsmLine :=
  if mnemonic = "INIT".toList then
    match ops with
    | [fc, t, coef0, adcBits, n, e] => .ok (.init fc t coef0 adcBits n (some e))
    | [fc, t, coef0, adcBits, n] => .ok (.init fc t coef0 adcBits n none)
    | _ => .error .operandCount
  else if mnemonic = "CONFIG".toList then
    match ops with
    | [fc, t] => .ok (.config fc t)
    | _ => .error .operandCount
  else if mnemonic = "APPLY".toList then
    match ops with
    | [raw, reqFc] => .ok (.apply raw reqFc)
    | _ => .error .operandCount
  else if mnemonic = "SETEN".toList then
    match ops with
    | [e] => .ok (.seten e)
    | _ => .error .operandCount
  else if ops ≠ [] then .error .operandCount
  else if mnemonic = "RESTART".toList then .ok .restart
  else if mnemonic = "RDADC".toList then .ok .rdadc
  else if mnemonic = "RDWIDTH".toList then .ok .rdwidth
  else if mnemonic = "ENABLE".toList then .ok .enable
  else if mnemonic = "DISABLE".toList then .ok .disable
  else .error .unknownMnemonic

/-- One line of source: `;` starts a comment, a line with nothing else is no command (30_encoding.md R75). -/
def parseLine (cs : List Char) : Except AsmError (Option AsmLine) :=
  let body := trim (cs.takeWhile (fun c => c != ';'))
  if body = [] then .ok none
  else
    match parseOperands (body.dropWhile (fun c => !isBlank c)) with
    | none => .error .badNumber
    | some ops =>
      match lineOf (body.takeWhile (fun c => !isBlank c)) ops with
      | .ok l => if l.wellFormed then .ok (some l) else .error .operandDoesNotFit
      | .error e => .error e

/-- The host writes of the lines of a text, in order. -/
def assembleLines (p : Params) : List (List Char) → Except AsmError (List HostOp)
  | [] => .ok []
  | cs :: rest =>
    match parseLine cs, assembleLines p rest with
    | .ok none, .ok ops => .ok ops
    | .ok (some l), .ok ops =>
      match assembleLine p l with
      | some ws => .ok (ws ++ ops)
      | none => .error .operandDoesNotFit
    | .error e, _ => .error e
    | _, .error e => .error e

/-- A text, "one per line", as the host's writes (30_encoding.md R75 to R77). -/
def assemble (p : Params) (src : List Char) : Except AsmError (List HostOp) :=
  assembleLines p (splitAtChar '\n' src)

/-- The host agent `agent` performs these accesses, in this order. -/
def accesses (agent : Nat) (ops : List HostOp) : List HostEvent := ops.map (.access agent)

end Sys2Proof.Machine
end

