-- ==== Sys2Proof/Safety.lean ====
section
/-! DEFINITION. The terms claims are stated in: the invariant of a core (10_state.md R40 and the registers' ranges), the
agreement of two states on all a run may read (70_reset_and_hazards.md R252), a safe run. -/
namespace Sys2Proof.Machine

/-- A legal value of `STAT` (10_state.md R37): reserved bits 0, a cause of R221, `OK = 1` exactly when `CAUSE = 0`,
`SEED = 1` only with `OK = 1`. -/
def statLegal (v : Word) : Bool :=
  decide (v.extractLsb' 9 23 = 0) && decide (v.extractLsb' 1 3 = 0) && decide ((statCause v).toNat ≤ 6)
    && (statOk v == decide (statCause v = 0)) && (!statSeed v || statOk v)

/-- The invariant of a core: its registers in their ranges (10_state.md R22 to R28), R40 (a) to (c), what INIT leaves
behind (R31, R32), and a legal `STAT` (R37). -/
structure State.Inv (s : State) : Prop where
  /-- The parameters are legal (00_scope.md R9). -/
  legal : s.hw.legal = true
  /-- The pole bank has its capacity (R22). -/
  bankSize : s.poles.length = s.hw.npolesMax
  /-- Every pole is a W-bit signed value (R22). -/
  polesInRange : ∀ v ∈ s.poles, InRange s.hw.w v
  /-- R40 (a), in every state of the model (`N` has the reset value 1, log 4). -/
  countInRange : 1 ≤ s.n ∧ s.n ≤ s.hw.npolesMax
  /-- R40 (b). -/
  coefInRange : s.coef < 2 ^ s.hw.f
  /-- R27. -/
  shiftInRange : s.shift < s.hw.w
  /-- R40 (c). -/
  shiftMatches : s.hw.variant = .shift → s.cfgValid = true →
    u32 s.t = s.hw.refPeriod ∧ s.hw.shiftFor (u32 s.fc) = some s.shift
  /-- R31, R32: before INIT nothing is configured, enabled or past the restart. -/
  uninited : s.inited = false → s.cfgValid = false ∧ s.en = false ∧ s.restart = true
  /-- R31: in the MUL variant `CFG_VALID` is 1 after every successful INIT; `FC ≠ 0` then (41_apply.md R153). -/
  mulConfigured : s.hw.variant = .mul → s.inited = true → s.cfgValid = true ∧ u32 s.fc ≠ 0 ∧ u32 s.t ≠ 0
  /-- R37. -/
  statIsLegal : statLegal s.stat = true

/-- Two states agree on everything a run may read: all of it but the registers without a value yet
(70_reset_and_hazards.md R252): `N`, `FC`, `T`, `COEF`, `ADC_BITS` before INIT, `SHIFT` while `CFG_VALID = 0` or in the MUL variant, the active
poles while `RESTART = 1`, and the poles from `N` on (41_apply.md R159). -/
structure Agree (a b : State) : Prop where
  hw : a.hw = b.hw
  bankSize : a.poles.length = b.poles.length
  en : a.en = b.en
  restart : a.restart = b.restart
  cfgValid : a.cfgValid = b.cfgValid
  inited : a.inited = b.inited
  arg0 : a.arg0 = b.arg0
  arg1 : a.arg1 = b.arg1
  arg2 : a.arg2 = b.arg2
  arg3 : a.arg3 = b.arg3
  arg4 : a.arg4 = b.arg4
  res : a.res = b.res
  stat : a.stat = b.stat
  bus : a.bus = b.bus
  resp : a.resp = b.resp
  /-- INIT writes these (40_configure.md R110). -/
  configured : a.inited = true → a.n = b.n ∧ a.fc = b.fc ∧ a.t = b.t ∧ a.coef = b.coef ∧ a.adcBits = b.adcBits
  /-- `SHIFT` "is read only when `CFG_VALID = 1`" (70_reset_and_hazards.md R252), and in the SHIFT variant only (R27). -/
  shift : a.hw.variant = .shift → a.inited = true → a.cfgValid = true → a.shift = b.shift
  /-- The poles "are read only by a cascade, which runs only when `RESTART = 0`" (70_reset_and_hazards.md R252). -/
  poles : a.inited = true → a.restart = false → a.poles.take a.n = b.poles.take a.n

/-- Two outcomes agree: both go on, to states that agree, or both stop for the same reason. -/
def OutcomesAgree (x y : Host.Outcome State Fault Refusal) : Prop :=
  match x, y with
  | .next a, .next b => Agree a b
  | .fault f, .fault g => f = g
  | .refused r, .refused q => r = q
  | _, _ => False

/-- An event that a single host may bring about at any time and that no platform has to decide: an assertion of the reset
input, or an access that 20_memory.md R52 admits. -/
def admitted (p : Params) : HostEvent → Bool
  | .reset _ => true
  | .access _ (.read addr n) =>
    match locate p addr n with
    | .reg _ => true
    | _ => false
  | .access _ (.write addr n _) =>
    match locate p addr n with
    | .reg _ => true
    | _ => false

/-- A safe run: legal parameters, one host, admitted accesses only (20_memory.md R52, R60; 60_exceptions.md R229). -/
def SafeToRun (s : State) : Prop :=
  s.hw.legal = true ∧ oneHost s.bus = true ∧ s.bus.all (admitted s.hw) = true

/-- One stage of the loop of 41_apply.md R150 passes every check and gives the new pole `np`, in the rule's own integer
formulas (R142, R144 to R149). -/
def StagePasses (p : Params) (coef shift : Nat) (cur pole np : Int) : Prop :=
  let d := wrap p.w (cur - pole)
  subCheck p cur pole d = false ∧
  match p.variant with
  | .mul =>
    let it := d / 2 ^ p.f * coef
    let ft := (d % 2 ^ p.f * coef + p.cascadeBias) / 2 ^ (p.w - p.f)
    let lag := wrap p.w (it + ft)
    ovf p.w it ft lag = false ∧ np = wrap p.w (lag + pole) ∧ ovf p.w lag pole np = false
  | .shift =>
    let lag := d / 2 ^ shift
    np = wrap p.w (lag + pole) ∧ ovf p.w lag pole np = false

/-- One stage of the loop of 41_apply.md R150 fails one of its checks (R142, R147, R149). -/
def StageFails (p : Params) (coef shift : Nat) (cur pole : Int) : Prop :=
  let d := wrap p.w (cur - pole)
  subCheck p cur pole d = true ∨
  match p.variant with
  | .mul =>
    let it := d / 2 ^ p.f * coef
    let ft := (d % 2 ^ p.f * coef + p.cascadeBias) / 2 ^ (p.w - p.f)
    let lag := wrap p.w (it + ft)
    ovf p.w it ft lag = true ∨ ovf p.w lag pole (wrap p.w (lag + pole)) = true
  | .shift =>
    let lag := d / 2 ^ shift
    ovf p.w lag pole (wrap p.w (lag + pole)) = true

/-- The first `k` stages of the cascade pass, the stage inputs and outputs being `c 0`, `c 1`, …, `c k`: stage `i` turns
`c i` and `POLE[i]` into `c (i+1)` (41_apply.md R150). -/
def StagesPass (s : State) (c : Nat → Int) (k : Nat) : Prop :=
  ∀ i, i < k → ∃ pole, s.poles[i]? = some pole ∧ StagePasses s.hw s.coef s.shift (c i) pole (c (i + 1))

/-- An operand register after a line's operand, if the line has it, is written (30_encoding.md R77). -/
def loaded (operand : Option Int) (old : Word) : Word :=
  match operand with
  | some v => BitVec.ofInt 32 v
  | none => old

end Sys2Proof.Machine
end

