-- ==== Sys2Proof/Certificates/Slice0/Obligations.lean ====
section
/-! DEFINITION. The statements for the provers: what spec/'s rules say the core does, over every state. -/

open Sys2Proof Sys2Proof.Machine

/-! ### Reset, parameters and the host's program -/

/-- 70_reset_and_hazards.md R251, for every build of the core: each register the spec gives a reset value has it, and
`STATE` reads as the table says. The registers whose reset value is "unspecified" are left open here. -/
def Obligations.ResetGivesTheSpecifiedValues : Prop :=
  ∀ p : Params,
    (State.resetWith p).en = false ∧ (State.resetWith p).restart = true ∧ (State.resetWith p).cfgValid = false ∧
    (State.resetWith p).inited = false ∧
    (State.resetWith p).arg0 = 0 ∧ (State.resetWith p).arg1 = 0 ∧ (State.resetWith p).arg2 = 0 ∧
    (State.resetWith p).arg3 = 0 ∧ (State.resetWith p).arg4 = 0 ∧
    (State.resetWith p).res = 0 ∧ (State.resetWith p).stat = 0x00000050 ∧
    (p.variant = .mul → windowRead (State.resetWith p) 0x20 = 0x00000004) ∧
    (p.variant = .shift → windowRead (State.resetWith p) 0x20 = 0x00000014) ∧
    (∃ q : Params, q.legal = true ∧ State.reset = State.resetWith q)

/-- 70_reset_and_hazards.md section 1: asserting the reset input sets every register that has a reset value to it, leaves
the core uninitialised, performs nothing of an abandoned command, and no state survives: two cores with the same parameters
and the same host program are the same after it, whatever they held and whatever was abandoned. Two clauses are the
model's choice: that the registers whose reset value the spec leaves unspecified come out equal (log 4), and that the
host's remaining program is kept and the record of the last answer cleared (log 11). -/
def Obligations.ResetInputForgetsEverything : Prop :=
  ∀ (s u : State) (x y : Option HostOp) (rest : List HostEvent),
    s.hw.legal = true → oneHost rest = true → s.bus = .reset x :: rest →
    (∃ t, step s = .next t ∧ t.hw = s.hw ∧ t.bus = rest ∧ t.en = false ∧ t.restart = true ∧ t.cfgValid = false ∧
      t.inited = false ∧ t.arg0 = 0 ∧ t.arg1 = 0 ∧ t.arg2 = 0 ∧ t.arg3 = 0 ∧ t.arg4 = 0 ∧ t.res = 0 ∧
      t.stat = 0x00000050 ∧ windowRead t 0x20 = if s.hw.variant = .shift then 0x00000014 else 0x00000004) ∧
    (u.hw = s.hw → u.bus = .reset y :: rest → step u = step s)

/-- 00_scope.md R9: parameters that break one of its constraints are rejected. -/
def Obligations.ParametersBreakingTheirConstraintsAreRefused : Prop :=
  ∀ s : State,
    (s.hw.w ≠ 2 * s.hw.f ∨ s.hw.npolesMax < 1 ∨ s.hw.lagK = 0 ∨ (∃ e ∈ s.hw.shiftTable, s.hw.w ≤ e.2) ∨
      (∃ a ∈ s.hw.shiftTable, ∃ b ∈ s.hw.shiftTable, a.1 < b.1 ∧ a.2 ≤ b.2)) →
    step s = .refused .illegalParameters

/-- 20_memory.md R60: a program with two host agents is refused, wherever in it they act. -/
def Obligations.TwoHostAgentsAreRefused : Prop :=
  ∀ (s : State) (a b : Nat) (x y : HostOp),
    s.hw.legal = true → .access a x ∈ s.bus → .access b y ∈ s.bus → a ≠ b → step s = .refused .twoHosts

/-- 60_exceptions.md R234: between commands the core holds its state and does nothing. -/
def Obligations.IdleCoreHoldsItsState : Prop :=
  ∀ s : State, s.hw.legal = true → s.bus = [] → step s = .next s

/-! ### The register window -/

/-- 20_memory.md R52: an access of the window of another width, or at an offset that is no multiple of 4, is a fault of
the host's step. -/
def Obligations.SubWordOrMisalignedAccessIsABusError : Prop :=
  ∀ (s : State) (agent off n : Nat) (v : Word) (rest : List HostEvent),
    s.hw.legal = true → oneHost s.bus = true → off < 64 → (n ≠ 4 ∨ off % 4 ≠ 0) →
    (s.bus = .access agent (.read (s.hw.base + off) n) :: rest → step s = .fault .busError) ∧
    (s.bus = .access agent (.write (s.hw.base + off) n v) :: rest → step s = .fault .busError)

/-- 20_memory.md R50: an address outside the 64 bytes at `BASE` is not the core's; the model refuses it (log 6). -/
def Obligations.AccessOutsideTheWindowIsRefused : Prop :=
  ∀ (s : State) (agent addr n : Nat) (v : Word) (rest : List HostEvent),
    s.hw.legal = true → oneHost s.bus = true → (addr < s.hw.base ∨ s.hw.base + 64 ≤ addr) →
    (s.bus = .access agent (.read addr n) :: rest → step s = .refused .outsideWindow) ∧
    (s.bus = .access agent (.write addr n v) :: rest → step s = .refused .outsideWindow)

/-- 20_memory.md R51, R54, R55: every admitted read returns the register the map gives (`CMD` and the reserved offsets
read 0) and changes nothing; an admitted write of anything but `CMD` stores `ARG0` to `ARG4`, is accepted and ignored at a
read-only or reserved offset, and changes nothing else. -/
def Obligations.AccessesFollowTheRegisterMap : Prop :=
  ∀ (s : State) (agent off : Nat) (v : Word) (rest : List HostEvent),
    s.hw.legal = true → oneHost s.bus = true → off < 64 → off % 4 = 0 →
    (s.bus = .access agent (.read (s.hw.base + off) 4) :: rest →
      step s = .next { s with
        bus := rest,
        resp := .data
          (if off = 0x04 then s.arg0 else if off = 0x08 then s.arg1 else if off = 0x0C then s.arg2
           else if off = 0x10 then s.arg3 else if off = 0x14 then s.arg4 else if off = 0x18 then s.res
           else if off = 0x1C then s.stat else if off = 0x20 then stateWord s else 0) }) ∧
    (s.bus = .access agent (.write (s.hw.base + off) 4 v) :: rest → off ≠ 0 →
      step s = .next { s with
        bus := rest, resp := .ack,
        arg0 := if off = 0x04 then v else s.arg0, arg1 := if off = 0x08 then v else s.arg1,
        arg2 := if off = 0x0C then v else s.arg2, arg3 := if off = 0x10 then v else s.arg3,
        arg4 := if off = 0x14 then v else s.arg4 })

/-- 20_memory.md R57: a full-word write of a command word to `CMD` executes the command it encodes, completely, before the
host's next access; the step adds only the host's progress and the acknowledgement. -/
def Obligations.StepRunsTheDecodedCommand : Prop :=
  ∀ (s : State) (agent : Nat) (v : Word) (i : Instr) (rest : List HostEvent),
    s.hw.legal = true → oneHost s.bus = true → s.bus = .access agent (.write s.hw.base 4 v) :: rest →
    decode v = .ok i → step s = exec i { s with bus := rest, resp := .ack }

/-- A word placed as the next command (`withFetchWord`) is run by the very next step, whichever the host agent of the
program. -/
def Obligations.FetchedWordRunsNext : Prop :=
  ∀ (s : State) (nbits w : Nat) (i : Instr),
    s.hw.legal = true → oneHost s.bus = true → decodeTableWord nbits w = some i →
    step (s.withFetchWord nbits w) = exec i { s with resp := .ack }

/-- 10_state.md R38: the fields of `STATE`, that reading it has no side effect, and its reset value. -/
def Obligations.StateRegisterShowsTheFlags : Prop :=
  (∀ p : Params, stateWord (State.resetWith p) = if p.variant = .shift then 0x00000014 else 0x00000004) ∧
  ∀ (s : State) (agent : Nat) (rest : List HostEvent),
    s.Inv → oneHost s.bus = true → s.bus = .access agent (.read (s.hw.base + 0x20) 4) :: rest →
    ∃ v : Word, step s = .next { s with bus := rest, resp := .data v } ∧
      v.getLsbD 0 = s.inited ∧ v.getLsbD 1 = s.en ∧ v.getLsbD 2 = s.restart ∧ v.getLsbD 3 = s.cfgValid ∧
      v.getLsbD 4 = decide (s.hw.variant = .shift) ∧ v.extractLsb' 5 3 = 0 ∧
      (v.extractLsb' 8 8).toNat = (if s.inited then s.n else 0) ∧ v.extractLsb' 16 16 = 0

/-- 20_memory.md R53: byte lane `k` carries bits `8k+7 : 8k`, so the four lanes make up the register, lane 0 least
significant. -/
def Obligations.ByteLanesMakeUpTheRegister : Prop :=
  ∀ v : Word,
    (∀ k j, k < 4 → j < 8 → (byteLane v k).getLsbD j = v.getLsbD (8 * k + j)) ∧
    v.toNat = (byteLane v 0).toNat + 256 * (byteLane v 1).toNat + 65536 * (byteLane v 2).toNat
      + 16777216 * (byteLane v 3).toNat

/-! ### Encoding -/

/-- 30_encoding.md R72: words written out from the table decode to their commands. -/
def Obligations.ExampleWordsDecode : Prop :=
  decode 0x00000101 = .ok (.init true) ∧ decode 0x00000001 = .ok (.init false) ∧
  decode 0x00000002 = .ok .config ∧ decode 0x00000003 = .ok .apply ∧ decode 0x00000004 = .ok .restart ∧
  decode 0x00000105 = .ok (.seten true) ∧ decode 0x00000005 = .ok (.seten false) ∧
  decode 0x00000006 = .ok .rdadc ∧ decode 0x00000007 = .ok .rdwidth

/-- 30_encoding.md R72: a word selects a command exactly when `(w & mask) = match`, and bit 8 is the `E` operand of INIT
and SETEN (R71). -/
def Obligations.DecodeFollowsTheOpcodeTable : Prop :=
  ∀ w : Word,
    (∀ e, decode w = .ok (.init e) ↔ w &&& 0xFFFFFEFF = 0x00000001 ∧ e = w.getLsbD 8) ∧
    (decode w = .ok .config ↔ w &&& 0xFFFFFFFF = 0x00000002) ∧
    (decode w = .ok .apply ↔ w &&& 0xFFFFFFFF = 0x00000003) ∧
    (decode w = .ok .restart ↔ w &&& 0xFFFFFFFF = 0x00000004) ∧
    (∀ e, decode w = .ok (.seten e) ↔ w &&& 0xFFFFFEFF = 0x00000005 ∧ e = w.getLsbD 8) ∧
    (decode w = .ok .rdadc ↔ w &&& 0xFFFFFFFF = 0x00000006) ∧
    (decode w = .ok .rdwidth ↔ w &&& 0xFFFFFFFF = 0x00000007)

/-- 30_encoding.md R73 and 60_exceptions.md R222: which words are illegal, and that writing one to `CMD` reports `ILLEGAL`
and changes no other register, whatever the state. -/
def Obligations.IllegalWordsOnlyReport : Prop :=
  ∀ v : Word,
    ((v.extractLsb' 0 8 = 0 ∨ 0x08 ≤ (v.extractLsb' 0 8).toNat ∨ v.extractLsb' 9 23 ≠ 0 ∨
        (v.getLsbD 8 = true ∧ v.extractLsb' 0 8 ≠ 0x01 ∧ v.extractLsb' 0 8 ≠ 0x05)) ↔
      ∃ r, decode v = .error r) ∧
    ∀ (s : State) (agent : Nat) (rest : List HostEvent) (r : DecodeReject),
      s.hw.legal = true → oneHost s.bus = true → s.bus = .access agent (.write s.hw.base 4 v) :: rest →
      decode v = .error r →
      step s = .next { s with bus := rest, resp := .ack, stat := 0x00000060 }

/-- Decoder and encoder agree on all 2^32 words: each word of a command is that command's one encoding, and every command
has one (30_encoding.md R70, R72, R74). -/
def Obligations.DecodeAndEncodeAgree : Prop :=
  (∀ (w : Word) (i : Instr), decode w = .ok i ↔ encode i = w) ∧
  (∀ i : Instr, i.wellFormed = true ∧ decodeTableWord 32 (encode i).toNat = some i)

/-! ### INIT and CONFIG -/

/-- 40_configure.md R110 to R113: INIT's argument check, and all a successful INIT writes, in both variants. -/
def Obligations.InitConstructsTheFilter : Prop :=
  ∀ (e : Bool) (s : State),
    (s.arg0.toNat = 0 ∨ s.arg1.toNat = 0 ∨ 2 ^ s.hw.f ≤ s.arg2.toNat ∨ s.arg4.toNat < 1 ∨
        s.hw.npolesMax < s.arg4.toNat →
      exec (.init e) s = .next { s with stat := 0x00000040 }) ∧
    (s.arg0.toNat ≠ 0 → s.arg1.toNat ≠ 0 → s.arg2.toNat < 2 ^ s.hw.f → 1 ≤ s.arg4.toNat →
        s.arg4.toNat ≤ s.hw.npolesMax →
      (s.hw.variant = .mul →
        exec (.init e) s = .next { s with
          fc := s.arg0, t := s.arg1, coef := s.arg2.toNat, adcBits := s.arg3, n := s.arg4.toNat, en := e,
          restart := true, inited := true, cfgValid := true, stat := 0x00000001 }) ∧
      (∀ k, s.hw.variant = .shift → s.arg1.toNat = s.hw.refPeriod → s.hw.shiftFor s.arg0.toNat = some k →
        exec (.init e) s = .next { s with
          fc := s.arg0, t := s.arg1, coef := s.arg2.toNat, adcBits := s.arg3, n := s.arg4.toNat, en := e,
          restart := true, inited := true, shift := k, cfgValid := true, stat := 0x00000001 }) ∧
      (s.hw.variant = .shift → s.arg1.toNat ≠ s.hw.refPeriod ∨ s.arg0.toNat ∉ s.hw.shiftFreqs →
        exec (.init e) s = .next { s with
          fc := s.arg0, t := s.arg1, coef := s.arg2.toNat, adcBits := s.arg3, n := s.arg4.toNat, en := e,
          restart := true, inited := true, cfgValid := false, stat := 0x00000001 }))

/-- 40_configure.md R100 to R102, R105 to R108: what `Configure` accepts, what it then writes, that it writes nothing when it
returns false (`none`), and the spec's shift table. -/
def Obligations.ConfigureFollowsItsRules : Prop :=
  ∀ (fc t : Word) (s : State),
    (s.hw.variant = .mul →
      (fc.toNat = 0 ∨ t.toNat = 0 ∨ 2 ^ s.hw.w ≤ s.hw.lagK * fc.toNat * t.toNat → configure fc t s = none) ∧
      (fc.toNat ≠ 0 → t.toNat ≠ 0 → s.hw.lagK * fc.toNat * t.toNat < 2 ^ s.hw.w →
        configure fc t s = some { s with
          coef := (s.hw.lagK * fc.toNat * t.toNat * (2 ^ s.hw.w - s.hw.lagK * fc.toNat * t.toNat) + s.hw.coefBias)
            >>> (s.hw.w + s.hw.f),
          fc := fc, t := t, cfgValid := true, restart := if s.hw.restartOnReconfig then true else s.restart })) ∧
    (s.hw.variant = .shift →
      (t.toNat ≠ s.hw.refPeriod ∨ fc.toNat ∉ s.hw.shiftFreqs → configure fc t s = none) ∧
      (∀ k, s.hw.legal = true → t.toNat = s.hw.refPeriod → (fc.toNat, k) ∈ s.hw.shiftTable →
        configure fc t s = some { s with
          shift := k,
          fc := fc, t := t, cfgValid := true, restart := if s.hw.restartOnReconfig then true else s.restart })) ∧
    Params.default.shiftTable = [(100, 5), (50, 6), (25, 7), (10, 8), (5, 9), (1, 12)] ∧ Params.default.refPeriod = 50

/-- 40_configure.md R116: CONFIG, whatever `EN` is. -/
def Obligations.ConfigRunsConfigure : Prop :=
  ∀ s : State,
    (s.inited = false → exec .config s = .next { s with stat := 0x00000050 }) ∧
    (s.inited = true → configure s.arg0 s.arg1 s = none → exec .config s = .next { s with stat := 0x00000020 }) ∧
    (∀ u, s.inited = true → configure s.arg0 s.arg1 s = some u →
      exec .config s = .next { u with stat := 0x00000001 })

/-- 40_configure.md R104: `COEF` becomes the product with the bias, shifted, which is below `2^F`, and `Commit` follows. With
the spec's bias of half the divisor it is at most `2^(F-2)` (F at least 2: at W = 2, F = 1 the rule's bound is below 1).
And the rule's example. -/
def Obligations.DerivedCoefficientIsRoundedAndBounded : Prop :=
  (∀ (fc t : Word) (s : State),
    s.hw.legal = true → s.hw.variant = .mul →
    fc.toNat ≠ 0 → t.toNat ≠ 0 → s.hw.lagK * fc.toNat * t.toNat < 2 ^ s.hw.w →
    ∃ c : Nat,
      configure fc t s = some (commit fc t { s with coef := c }) ∧
      c = (s.hw.lagK * fc.toNat * t.toNat * (2 ^ s.hw.w - s.hw.lagK * fc.toNat * t.toNat) + s.hw.coefBias)
        / 2 ^ (s.hw.w + s.hw.f) ∧
      c < 2 ^ s.hw.f ∧ (2 ≤ s.hw.f → s.hw.coefBias = 2 ^ (s.hw.w + s.hw.f - 1) → c ≤ 2 ^ (s.hw.f - 2))) ∧
  Params.default.lagK * 50 * 50 = 0x04056F28 ∧ deriveCoef Params.default 50 50 = some 1013

/-- 40_configure.md R109 (b) and 95_test_vectors.md section 5.2: the derived coefficient does not fall while
`LAG_K * fc * T` stays at most `2^(W-1)`. -/
def Obligations.DerivedCoefficientGrowsBelowHalfScale : Prop :=
  ∀ (p : Params) (fc t fc' t' c c' : Nat),
    p.legal = true → fc * t ≤ fc' * t' → p.lagK * fc' * t' ≤ 2 ^ (p.w - 1) →
    deriveCoef p fc t = some c → deriveCoef p fc' t' = some c' → c ≤ c'

/-- 40_configure.md R109 (a) to (c) at the spec's parameter values: the zero, peak, falling and rejected cases. -/
def Obligations.DerivedCoefficientCornerCases : Prop :=
  deriveCoef Params.default 1 1 = some 0 ∧
  (∀ fc, 1583 ≤ fc → fc ≤ 1600 → deriveCoef Params.default fc 50 = some 16384) ∧
  deriveCoef Params.default 3183 50 = some 2 ∧ deriveCoef Params.default 3184 50 = none ∧
  deriveCoef Params.default (2 ^ 32 - 1) (2 ^ 32 - 1) = none

/-- 40_configure.md R117: the reconfiguration inside APPLY leaves the configuration registers as CONFIG would with the
requested frequency and the stored `T`, accepted or rejected alike. -/
def Obligations.ApplyReconfiguresAsConfigDoes : Prop :=
  ∀ s t u : State,
    s.inited = true → s.en = true → (s.arg1 ≠ s.fc ∨ s.cfgValid = false) →
    exec .apply s = .next t → exec .config { s with arg0 := s.arg1, arg1 := s.t } = .next u →
    t.fc = u.fc ∧ t.t = u.t ∧ t.coef = u.coef ∧ t.shift = u.shift ∧ t.cfgValid = u.cfgValid ∧
    (statCause t.stat = Cause.configRejected.code ↔ statCause u.stat = Cause.configRejected.code)

/-! ### APPLY -/

/-- 60_exceptions.md R224, 41_apply.md R153: the failures before the seed tick, in their order; in each `RES` is the
scaled input and nothing else but `STAT` changes. -/
def Obligations.ApplyReportsTheFirstFailure : Prop :=
  ∀ s : State,
    (s.inited = false →
      exec .apply s = .next { s with res := resPattern (wrap s.hw.w (s.arg0.toInt * 2 ^ s.hw.f)), stat := 0x00000050 }) ∧
    (s.inited = true → s.en = false →
      exec .apply s = .next { s with res := resPattern (wrap s.hw.w (s.arg0.toInt * 2 ^ s.hw.f)), stat := 0x00000010 }) ∧
    (s.inited = true → s.en = true → (s.arg1 ≠ s.fc ∨ s.cfgValid = false) → configure s.arg1 s.t s = none →
      exec .apply s = .next { s with res := resPattern (wrap s.hw.w (s.arg0.toInt * 2 ^ s.hw.f)), stat := 0x00000020 })

/-- 41_apply.md R152: the seed tick, after the reconfiguration of step 3 (`s3` is the state it leaves) if one is due.
Every active pole is the scaled input, `RESTART` is cleared, the tick succeeds with `SEED`. -/
def Obligations.SeedTickSeedsEveryActivePole : Prop :=
  ∀ s s3 : State,
    s.inited = true → s.en = true →
    ((s.arg1 ≠ s.fc ∨ s.cfgValid = false) → configure s.arg1 s.t s = some s3) →
    (s.arg1 = s.fc → s.cfgValid = true → s3 = s) → s3.restart = true →
    ∃ ps : List Int,
      exec .apply s = .next { s3 with
        poles := ps, restart := false, res := resPattern (wrap s.hw.w (s.arg0.toInt * 2 ^ s.hw.f)), stat := 0x00000101 } ∧
      ps.length = s.poles.length ∧
      (∀ k, k < s.n → k < s.poles.length → ps[k]? = some (wrap s.hw.w (s.arg0.toInt * 2 ^ s.hw.f))) ∧
      (∀ k, s.n ≤ k → ps[k]? = s.poles[k]?)

/-- 41_apply.md R150 (section 2), reached as R153 says (section 3): when every stage of the loop passes (`c i` is the input
of stage `i`, `c (i+1)` its output), the tick stores the outputs in the poles, gives the last one as `RES` and succeeds;
nothing else changes after step 3. -/
def Obligations.CascadeFollowsTheStageLoop : Prop :=
  ∀ (s s3 : State) (c : Nat → Int),
    s.inited = true → s.en = true →
    ((s.arg1 ≠ s.fc ∨ s.cfgValid = false) → configure s.arg1 s.t s = some s3) →
    (s.arg1 = s.fc → s.cfgValid = true → s3 = s) → s3.restart = false →
    c 0 = wrap s.hw.w (s.arg0.toInt * 2 ^ s.hw.f) → StagesPass s3 c s.n →
    ∃ ps : List Int,
      exec .apply s = .next { s3 with poles := ps, res := resPattern (c s.n), stat := 0x00000001 } ∧
      ps.length = s.poles.length ∧ (∀ i, i < s.n → ps[i]? = some (c (i + 1))) ∧
      (∀ i, s.n ≤ i → ps[i]? = s.poles[i]?)

/-- 41_apply.md R151: when the stages before stage `k` pass and a check of stage `k` fires, every active pole and `RES`
become the scaled input, `RESTART` is set, and the tick reports `OVERFLOW`; nothing else changes after step 3. -/
def Obligations.OverflowResetsEveryActivePole : Prop :=
  ∀ (s s3 : State) (c : Nat → Int) (k : Nat) (pole : Int),
    s.inited = true → s.en = true →
    ((s.arg1 ≠ s.fc ∨ s.cfgValid = false) → configure s.arg1 s.t s = some s3) →
    (s.arg1 = s.fc → s.cfgValid = true → s3 = s) → s3.restart = false →
    c 0 = wrap s.hw.w (s.arg0.toInt * 2 ^ s.hw.f) → k < s.n → StagesPass s3 c k →
    s.poles[k]? = some pole → StageFails s3.hw s3.coef s3.shift (c k) pole →
    ∃ ps : List Int,
      exec .apply s = .next { s3 with
        poles := ps, restart := true, res := resPattern (c 0), stat := 0x00000030 } ∧
      ps.length = s.poles.length ∧ (∀ i, i < s.n → i < s.poles.length → ps[i]? = some (c 0)) ∧
      (∀ i, s.n ≤ i → ps[i]? = s.poles[i]?)

/-- Every sampling tick completes, whatever the operands and the state, and leaves the parameters, the operand registers,
`N`, `ADC_BITS`, `EN` and `INITED` as they were. -/
def Obligations.EveryTickCompletes : Prop :=
  ∀ s : State, ∃ t, exec .apply s = .next t ∧ t.hw = s.hw ∧ t.arg0 = s.arg0 ∧ t.arg1 = s.arg1 ∧ t.arg2 = s.arg2 ∧
    t.arg3 = s.arg3 ∧ t.arg4 = s.arg4 ∧ t.n = s.n ∧ t.adcBits = s.adcBits ∧ t.en = s.en ∧ t.inited = s.inited ∧
    t.poles.length = s.poles.length ∧ t.bus = s.bus ∧ t.resp = s.resp

/-- 95_test_vectors.md section 4: after an APPLY that fails, the poles are unchanged (`NOT_INIT`, `DISABLED`,
`CONFIG_REJECTED`) or the active ones all equal the scaled input (`OVERFLOW`), and `RES` is the scaled input; after a
seed tick the active poles equal it too (41_apply.md R151, R152, R153). -/
def Obligations.FailedTicksLeaveTheScaledInput : Prop :=
  ∀ s t : State,
    exec .apply s = .next t →
    (statOk t.stat = false ∨ statSeed t.stat = true → t.res = resPattern (scaleInput s.hw s.arg0.toInt)) ∧
    (statOk t.stat = false → statCause t.stat ≠ Cause.overflow.code → t.poles = s.poles) ∧
    (statCause t.stat = Cause.overflow.code ∨ statSeed t.stat = true →
      ∀ k, k < t.n → k < t.poles.length → t.poles[k]? = some (scaleInput s.hw s.arg0.toInt))

/-! ### Laws of the datapath -/

/-- 41_apply.md R141: the predicate on W-bit values is the comparison of signs the rule gives, and for the wrapped sum it is
true exactly when the exact sum leaves the W-bit range. -/
def Obligations.OverflowPredicateIsExactForSums : Prop :=
  ∀ (w : Nat) (a b : Int), 1 ≤ w → InRange w a → InRange w b →
    (∀ r, InRange w r → (ovf w a b r = true ↔ (a < 0 ↔ b < 0) ∧ ¬ (r < 0 ↔ a < 0))) ∧
    (ovf w a b (wrap w (a + b)) = true ↔ ¬ InRange w (a + b))

/-- 41_apply.md R142: `SAME_SIGN` is the predicate of R141 on minuend, subtrahend and difference;
`TWOS_COMPLEMENT_SUB` is true exactly when the exact difference leaves the W-bit range. -/
def Obligations.SubtractionCheckOfBothRules : Prop :=
  ∀ (p : Params) (a b : Int), 1 ≤ p.w → InRange p.w a → InRange p.w b →
    (p.subOvfRule = .sameSign → subCheck p a b (wrap p.w (a - b)) = ovf p.w a b (wrap p.w (a - b))) ∧
    (p.subOvfRule = .twosComplementSub →
      subCheck p a b (wrap p.w (a - b)) = decide (sgn p.w a ≠ sgn p.w b ∧ sgn p.w (wrap p.w (a - b)) ≠ sgn p.w a) ∧
      (subCheck p a b (wrap p.w (a - b)) = true ↔ ¬ InRange p.w (a - b))) ∧
    Params.default.subOvfRule = .sameSign

/-- 41_apply.md R143: the scaled input is a W-bit value congruent to `raw * 2^F`, and exactly that where `raw` is in
`[-2^(W-F-1), 2^(W-F-1))`. -/
def Obligations.ScalerWrapsModuloTheWordSize : Prop :=
  ∀ (p : Params) (raw : Int), p.legal = true →
    InRange p.w (scaleInput p raw) ∧ (2 ^ p.w : Int) ∣ (scaleInput p raw - raw * 2 ^ p.f) ∧
    (InRange (p.w - p.f) raw → scaleInput p raw = raw * 2 ^ p.f)

/-- 41_apply.md R144: the integer and the fractional part make up the difference exactly. -/
def Obligations.DifferenceSplitsExactly : Prop :=
  ∀ (p : Params) (d : Int), d = intPart p d * 2 ^ p.f + fracPart p d ∧ fracPart p d < 2 ^ p.f

/-- 41_apply.md R154: the closed form of the MUL lag value, with the rounding bias of half the divisor, and its
consequences for `COEF = 0` (a pole in range keeps its value), `d = 0` and `d = -1`. -/
def Obligations.MulLagHasTheClosedForm : Prop :=
  ∀ (p : Params) (coef shift : Nat) (d : Int),
    p.legal = true → p.variant = .mul → p.cascadeBias = 2 ^ (p.w - p.f - 1) → coef < 2 ^ p.f → InRange p.w d →
    intTerm p coef d + fracTerm p coef d = (d * coef + 2 ^ (p.f - 1)) / 2 ^ p.f ∧
    lagValue p coef shift d = .ok ((d * coef + 2 ^ (p.f - 1)) / 2 ^ p.f) ∧
    (coef = 0 → lagValue p coef shift d = .ok 0 ∧ ∀ pole, InRange p.w pole → addPole p 0 pole = .ok pole) ∧
    (d = 0 → lagValue p coef shift d = .ok 0) ∧
    (d = -1 → lagValue p coef shift d = .ok (if coef ≤ 2 ^ (p.f - 1) then 0 else -1))

/-- 41_apply.md R155: no product and no lag addition overflows in the MUL variant, with the bias of half the divisor (F at
least 2 for the bound on `ft`, which fails at F = 1). -/
def Obligations.MulLagNeverOverflows : Prop :=
  ∀ (p : Params) (coef : Nat) (d : Int),
    p.legal = true → p.cascadeBias = 2 ^ (p.w - p.f - 1) → coef < 2 ^ p.f → InRange p.w d →
    (intTerm p coef d).natAbs ≤ 2 ^ (p.f - 1) * (2 ^ p.f - 1) ∧ (intTerm p coef d).natAbs < 2 ^ (p.w - 1) ∧
    fracPart p d * coef + p.cascadeBias < 2 ^ p.w ∧ (2 ≤ p.f → fracTerm p coef d ≤ 2 ^ p.f - 2) ∧
    InRange p.w (intTerm p coef d + fracTerm p coef d) ∧
    ovf p.w (intTerm p coef d) (fracTerm p coef d) (wrap p.w (intTerm p coef d + fracTerm p coef d)) = false

/-- 41_apply.md R156: when the difference did not wrap and the subtraction is not reported, the stage passes its other
checks and the new pole lies between the old pole and the stage's input, in both variants. -/
def Obligations.NewPoleLiesBetweenPoleAndInput : Prop :=
  ∀ (p : Params) (coef shift : Nat) (cur pole : Int),
    p.legal = true → coef < 2 ^ p.f → InRange p.w cur → InRange p.w pole → InRange p.w (cur - pole) →
    subCheck p cur pole (cur - pole) = false →
    ∃ np, stage p coef shift cur pole = .ok np ∧ min pole cur ≤ np ∧ np ≤ max pole cur

/-- 41_apply.md R157: what `SAME_SIGN` reports and what it misses, and that `TWOS_COMPLEMENT_SUB` reports the true overflow
of operands of different signs only. -/
def Obligations.SameSignRuleReportsFallingInputs : Prop :=
  ∀ (p : Params) (cur pole : Int), 1 ≤ p.w → InRange p.w cur → InRange p.w pole →
    (p.subOvfRule = .sameSign →
      (0 ≤ cur → 0 ≤ pole → (subCheck p cur pole (wrap p.w (cur - pole)) = true ↔ cur < pole)) ∧
      (cur < 0 → pole < 0 → (subCheck p cur pole (wrap p.w (cur - pole)) = true ↔ pole ≤ cur)) ∧
      ((cur < 0 ↔ 0 ≤ pole) → subCheck p cur pole (wrap p.w (cur - pole)) = false)) ∧
    (p.subOvfRule = .twosComplementSub →
      ((0 ≤ cur ↔ 0 ≤ pole) → subCheck p cur pole (wrap p.w (cur - pole)) = false) ∧
      ((cur < 0 ↔ 0 ≤ pole) → (subCheck p cur pole (wrap p.w (cur - pole)) = true ↔ ¬ InRange p.w (cur - pole))))

/-- 41_apply.md R158: a constant input. With every active pole equal to the scaled input, a tick that runs the cascade (`s3`
is the state step 3 leaves) keeps the poles and succeeds with `RES` the input, except under `SAME_SIGN` for a negative
input: that tick reports `OVERFLOW` and the same tick again is a seed tick, back in the same poles. -/
def Obligations.ConstantInputIsHeldOrAlternates : Prop :=
  ∀ s s3 : State,
    s.Inv → s.inited = true → s.en = true →
    ((s.arg1 ≠ s.fc ∨ s.cfgValid = false) → configure s.arg1 s.t s = some s3) →
    (s.arg1 = s.fc → s.cfgValid = true → s3 = s) → s3.restart = false →
    (∀ k, k < s.n → s.poles[k]? = some (scaleInput s.hw s.arg0.toInt)) →
    ((s.hw.subOvfRule = .sameSign ∧ scaleInput s.hw s.arg0.toInt < 0) →
      exec .apply s = .next { s3 with
        restart := true, res := resPattern (scaleInput s.hw s.arg0.toInt), stat := 0x00000030 } ∧
      exec .apply { s3 with
          restart := true, res := resPattern (scaleInput s.hw s.arg0.toInt), stat := 0x00000030 } =
        .next { s3 with res := resPattern (scaleInput s.hw s.arg0.toInt), stat := 0x00000101 }) ∧
    (¬ (s.hw.subOvfRule = .sameSign ∧ scaleInput s.hw s.arg0.toInt < 0) →
      exec .apply s = .next { s3 with res := resPattern (scaleInput s.hw s.arg0.toInt), stat := 0x00000001 })

/-! ### The control family -/

/-- 42_control.md R190: RESTART. -/
def Obligations.RestartSetsTheFlag : Prop :=
  ∀ s : State,
    (s.inited = false → exec .restart s = .next { s with stat := 0x00000050 }) ∧
    (s.inited = true → exec .restart s = .next { s with restart := true, stat := 0x00000001 })

/-- 42_control.md R191: SETEN; only enabling a disabled core restarts it. -/
def Obligations.SetenSetsTheEnablementFlag : Prop :=
  ∀ s : State,
    (∀ e, s.inited = false → exec (.seten e) s = .next { s with stat := 0x00000050 }) ∧
    (s.inited = true → s.en = false →
      exec (.seten true) s = .next { s with en := true, restart := true, stat := 0x00000001 }) ∧
    (s.inited = true → s.en = true → exec (.seten true) s = .next { s with stat := 0x00000001 }) ∧
    (s.inited = true → exec (.seten false) s = .next { s with en := false, stat := 0x00000001 })

/-- 42_control.md R192: RDADC. -/
def Obligations.RdadcReturnsTheAdcResolution : Prop :=
  ∀ s : State,
    (s.inited = false → exec .rdadc s = .next { s with stat := 0x00000050 }) ∧
    (s.inited = true → exec .rdadc s = .next { s with res := s.adcBits, stat := 0x00000001 })

/-- 42_control.md R193: RDWIDTH, before INIT as well; with the spec's parameter values the width is 32. -/
def Obligations.RdwidthReturnsTheRegisterWidth : Prop :=
  (∀ s : State, exec .rdwidth s = .next { s with res := BitVec.ofNat 32 s.hw.w, stat := 0x00000001 }) ∧
  Params.default.w = 32

/-- 60_exceptions.md R223: while `INITED = 0`, five commands report `NOT_INIT` and write nothing else, but that APPLY
writes its scaled input to `RES`; RDWIDTH and INIT execute as they do after it. -/
def Obligations.CommandsBeforeInitReportNotInit : Prop :=
  ∀ s : State, s.inited = false →
    exec .config s = .next { s with stat := 0x00000050 } ∧
    exec .apply s = .next { s with res := resPattern (scaleInput s.hw s.arg0.toInt), stat := 0x00000050 } ∧
    exec .restart s = .next { s with stat := 0x00000050 } ∧
    (∀ e, exec (.seten e) s = .next { s with stat := 0x00000050 }) ∧
    exec .rdadc s = .next { s with stat := 0x00000050 } ∧
    exec .rdwidth s = .next { s with res := BitVec.ofNat 32 s.hw.w, stat := 0x00000001 } ∧
    (∀ e, exec (.init e) s =
      if initRejects s then .next { s with stat := 0x00000040 } else exec (.init e) { s with inited := true })

/-! ### Rules of the whole machine -/

/-- 10_state.md R37: every command writes a legal `STAT`: the reserved bits are 0, `OK` is 1 exactly when `CAUSE` is 0,
and `SEED` is 1 exactly when the command was an APPLY that performed a seed tick (enabled, step 3 passed, `RESTART = 1`
after it). -/
def Obligations.EveryCommandWritesALegalStatus : Prop :=
  State.reset.stat = 0x00000050 ∧
  ∀ (i : Instr) (s t : State), exec i s = .next t →
    t.stat.extractLsb' 1 3 = 0 ∧ t.stat.extractLsb' 9 23 = 0 ∧ (t.stat.extractLsb' 4 4).toNat ≤ 6 ∧
    (t.stat.getLsbD 0 = true ↔ t.stat.extractLsb' 4 4 = 0) ∧
    (t.stat.getLsbD 8 = true → t.stat.getLsbD 0 = true) ∧
    (t.stat.getLsbD 8 = true ↔
      i = .apply ∧ s.inited = true ∧ s.en = true ∧ ∃ s3, reconfigure s.arg1 s = some s3 ∧ s3.restart = true)

/-- 10_state.md R35, R36, 95_test_vectors.md section 4: the frame of every command. No command writes an operand register, a
parameter or the host's program; only INIT writes `N` and `ADC_BITS`; only INIT and SETEN write `EN`; only INIT sets
`INITED`; only INIT, CONFIG and APPLY write the configuration; only APPLY writes poles; only APPLY, RDADC and RDWIDTH
write `RES`. -/
def Obligations.CommandsWriteOnlyTheirRegisters : Prop :=
  ∀ (i : Instr) (s t : State), exec i s = .next t →
    t.hw = s.hw ∧ t.arg0 = s.arg0 ∧ t.arg1 = s.arg1 ∧ t.arg2 = s.arg2 ∧ t.arg3 = s.arg3 ∧ t.arg4 = s.arg4 ∧
    t.bus = s.bus ∧ t.resp = s.resp ∧
    ((∀ e, i ≠ .init e) → t.n = s.n ∧ t.adcBits = s.adcBits ∧ t.inited = s.inited) ∧
    ((∀ e, i ≠ .init e) → (∀ e, i ≠ .seten e) → t.en = s.en) ∧
    ((∀ e, i ≠ .init e) → i ≠ .config → i ≠ .apply →
      t.fc = s.fc ∧ t.t = s.t ∧ t.coef = s.coef ∧ t.shift = s.shift ∧ t.cfgValid = s.cfgValid) ∧
    (i ≠ .apply → t.poles = s.poles) ∧
    (i ≠ .apply → i ≠ .rdadc → i ≠ .rdwidth → t.res = s.res)

/-- 10_state.md R30: `RESTART` is cleared only by a seed tick, and set only by INIT, RESTART, SETEN that enables a disabled
core, overflow recovery, or, with `RESTART_ON_RECONFIG`, a configuration. -/
def Obligations.RestartFlagChangesOnlyAsListed : Prop :=
  ∀ (i : Instr) (s t : State), exec i s = .next t →
    (s.restart = true → t.restart = false → i = .apply ∧ t.stat = 0x00000101) ∧
    (s.restart = false → t.restart = true →
      (∃ e, i = .init e) ∨ i = .restart ∨ (i = .seten true ∧ s.en = false) ∨
      (i = .apply ∧ t.stat = 0x00000030) ∨ (i = .config ∧ s.hw.restartOnReconfig = true))

/-- 10_state.md R31 and R32: a step clears `INITED` only by the reset input, and `CFG_VALID` only by the reset input or by
an INIT of the SHIFT variant whose pair is unsupported. -/
def Obligations.OnlyResetUninitialises : Prop :=
  ∀ s t : State, step s = .next t →
    (s.inited = true → t.inited = false → ∃ x rest, s.bus = .reset x :: rest) ∧
    (s.cfgValid = true → t.cfgValid = false →
      (∃ x rest, s.bus = .reset x :: rest) ∨
      (s.hw.variant = .shift ∧ (u32 s.arg1 ≠ s.hw.refPeriod ∨ u32 s.arg0 ∉ s.hw.shiftFreqs) ∧
        ∃ agent e rest, s.bus = .access agent (.write s.hw.base 4 (encode (.init e))) :: rest))

/-- 10_state.md R33 and R34: the transitions of the filter's state machine, row by row. -/
def Obligations.FilterStateMachineFollowsItsTable : Prop :=
  ∀ (i : Instr) (s t : State), exec i s = .next t →
    (∀ e, i = .init e → initRejects s = false →
      filterState t = some (if e then .enabledRestarting else .disabled) ∧ t.restart = true) ∧
    (∀ e, i = .init e → initRejects s = true → filterState t = filterState s) ∧
    (filterState s = none → (∀ e, i ≠ .init e) → filterState t = none) ∧
    (i = .restart → filterState s = some .disabled → filterState t = some .disabled ∧ t.restart = true) ∧
    (i = .restart → s.inited = true → s.en = true → filterState t = some .enabledRestarting) ∧
    (i = .seten true → filterState s = some .disabled → filterState t = some .enabledRestarting) ∧
    (i = .seten true → s.en = true → filterState t = filterState s) ∧
    (i = .seten false → s.inited = true → filterState t = some .disabled) ∧
    (i = .apply → filterState s = some .enabledRestarting →
      (statSeed t.stat = true ∧ filterState t = some .enabledSteady) ∨
      (statCause t.stat = Cause.configRejected.code ∧ filterState t = some .enabledRestarting)) ∧
    (i = .apply → filterState s = some .enabledSteady →
      filterState t = some (if statCause t.stat = Cause.overflow.code then .enabledRestarting else .enabledSteady)) ∧
    (i = .apply → filterState s = some .disabled → filterState t = some .disabled) ∧
    (i = .config → filterState s = some .enabledSteady →
      filterState t = some (if statOk t.stat = true ∧ s.hw.restartOnReconfig = true
        then .enabledRestarting else .enabledSteady)) ∧
    (i = .config → filterState s ≠ some .enabledSteady → filterState t = filterState s) ∧
    (i = .rdadc ∨ i = .rdwidth → filterState t = filterState s)

/-- 41_apply.md R159: no command writes a pole from `N` on, and none reads one: changing those poles changes nothing but
those poles. -/
def Obligations.PolesBeyondTheCountAreUntouched : Prop :=
  ∀ (i : Instr) (s t : State) (tail : List Int), exec i s = .next t → s.n ≤ s.poles.length →
    (∀ k, s.n ≤ k → t.poles[k]? = s.poles[k]?) ∧
    exec i { s with poles := s.poles.take s.n ++ tail } = .next { t with poles := t.poles.take s.n ++ tail }

/-- 30_encoding.md R71: a command reads no operand register but the ones it lists: changing the others changes nothing but
them. -/
def Obligations.UnlistedOperandsAreIgnored : Prop :=
  ∀ (i : Instr) (s t : State) (a b c d e : Word), exec i s = .next t →
    (i = .config ∨ i = .apply →
      exec i { s with arg2 := c, arg3 := d, arg4 := e } = .next { t with arg2 := c, arg3 := d, arg4 := e }) ∧
    ((∀ x, i ≠ .init x) → i ≠ .config → i ≠ .apply →
      exec i { s with arg0 := a, arg1 := b, arg2 := c, arg3 := d, arg4 := e } =
        .next { t with arg0 := a, arg1 := b, arg2 := c, arg3 := d, arg4 := e })

/-- 10_state.md R26, R27 (92_eei_decisions.md D37; log 15): the MUL variant neither reads nor writes `SHIFT`, and in the
SHIFT variant no command but INIT reads or writes `COEF`. -/
def Obligations.RegisterOfTheOtherVariantIsIgnored : Prop :=
  ∀ (i : Instr) (s t : State) (k : Nat), exec i s = .next t →
    (s.hw.variant = .mul → t.shift = s.shift ∧ exec i { s with shift := k } = .next { t with shift := k }) ∧
    (s.hw.variant = .shift → (∀ e, i ≠ .init e) →
      t.coef = s.coef ∧ exec i { s with coef := k } = .next { t with coef := k })

/-- 60_exceptions.md R220, R226, R229: from legal parameters, one host and admitted accesses, no run ever stops: every
number of steps completes. -/
def Obligations.AdmittedProgramsNeverStop : Prop :=
  ∀ (s : State) (k : Nat), SafeToRun s → ∃ t, Host.Core.run Sys2Proof.core k s = .next t ∧ SafeToRun t

/-! ### The invariant and the unspecified registers -/

/-- The invariant holds right after reset, for every legal choice of parameters, and for the spec's values. (`N = 1` and the
zeros are the model's reset values, log 4.) -/
def Obligations.ResetMeetsTheInvariant : Prop :=
  (∀ p : Params, p.legal = true → (State.resetWith p).Inv) ∧ State.reset.Inv

/-- 10_state.md R40 and the registers' ranges: every step keeps the invariant. -/
def Obligations.StepKeepsTheInvariant : Prop :=
  ∀ s t : State, s.Inv → step s = .next t → t.Inv

/-- 70_reset_and_hazards.md R252: "No rule reads an unspecified register before a rule has written it." Two cores that
agree on everything but registers without a value yet stay so through any number of steps, answer the host alike and
stop alike; and the reset states with other values in the unspecified registers agree. So no run can tell which values
the model chose for them (log 4). -/
def Obligations.ChosenResetValuesAreNeverObserved : Prop :=
  (∀ (k : Nat) (a b : State), Agree a b →
    OutcomesAgree (Host.Core.run Sys2Proof.core k a) (Host.Core.run Sys2Proof.core k b)) ∧
  (∀ (p : Params) (ps : List Int) (n coef shift : Nat) (fc t adcBits : Word), ps.length = p.npolesMax →
    Agree (State.resetWith p)
      { State.resetWith p with poles := ps, n := n, coef := coef, shift := shift, fc := fc, t := t, adcBits := adcBits })

/-! ### The assembler -/

/-- 30_encoding.md R75: an operand that does not fit its field is refused, and nothing else is. -/
def Obligations.AssemblerRefusesOperandsThatDoNotFit : Prop :=
  ∀ (p : Params) (fc t coef0 adcBits n e raw reqFc : Int),
    (assembleLine p (.init fc t coef0 adcBits n (some e)) = none ↔
      ¬ ((0 ≤ fc ∧ fc < 2 ^ 32) ∧ (0 ≤ t ∧ t < 2 ^ 32) ∧ (0 ≤ coef0 ∧ coef0 < 2 ^ 32) ∧
        (0 ≤ adcBits ∧ adcBits < 2 ^ 32) ∧ (0 ≤ n ∧ n < 2 ^ 32) ∧ (e = 0 ∨ e = 1))) ∧
    (assembleLine p (.config fc t) = none ↔ ¬ ((0 ≤ fc ∧ fc < 2 ^ 32) ∧ (0 ≤ t ∧ t < 2 ^ 32))) ∧
    (assembleLine p (.apply raw reqFc) = none ↔
      ¬ ((-2 ^ 31 ≤ raw ∧ raw < 2 ^ 31) ∧ (0 ≤ reqFc ∧ reqFc < 2 ^ 32))) ∧
    (assembleLine p (.seten e) = none ↔ ¬ (e = 0 ∨ e = 1))

/-- 30_encoding.md R76: a pseudo-command assembles to the same host writes as its expansion. -/
def Obligations.PseudoCommandsExpand : Prop :=
  ∀ (p : Params) (fc t coef0 adcBits n : Int),
    assembleLine p (.init fc t coef0 adcBits n none) = assembleLine p (.init fc t coef0 adcBits n (some 1)) ∧
    assembleLine p .enable = assembleLine p (.seten 1) ∧ assembleLine p .disable = assembleLine p (.seten 0)

/-- 30_encoding.md R77, 20_memory.md R57, R58: performing a line's host writes executes its command with the line's
operands in `ARG0` to `ARG4`, each write seen by the command after it. -/
def Obligations.HostWritesOfALineExecuteItsCommand : Prop :=
  ∀ (s : State) (l : AsmLine) (ws : List HostOp) (agent : Nat) (rest : List HostEvent),
    s.hw.legal = true → assembleLine s.hw l = some ws → s.bus = accesses agent ws ++ rest → oneHost s.bus = true →
    Host.Core.run Sys2Proof.core ws.length s = exec (lineInstr l) { s with
      bus := rest, resp := .ack,
      arg0 := loaded (lineOperands l)[0]? s.arg0, arg1 := loaded (lineOperands l)[1]? s.arg1,
      arg2 := loaded (lineOperands l)[2]? s.arg2, arg3 := loaded (lineOperands l)[3]? s.arg3,
      arg4 := loaded (lineOperands l)[4]? s.arg4 }
end

