-- ==== Sys2Proof/Laws/Numbers.lean ====
section
/-! SUPPORT. Facts of the number formats: where `wrap` lands, when it changes nothing, what `sgn`, `asr` and the mask are on
values in range (00_scope.md R11, R12). -/
namespace Sys2Proof.Machine

theorem two_pow_split {w : Nat} (hw : 1 ≤ w) : (2 : Int) ^ w = 2 * 2 ^ (w - 1) := by
  obtain ⟨k, rfl⟩ := Nat.exists_eq_add_of_le hw
  rw [Nat.add_sub_cancel_left, Nat.add_comm, pow_succ]; ring

/-- `wrap` lands in the W-bit range. -/
theorem wrap_inRange {w : Nat} (hw : 1 ≤ w) (v : Int) : InRange w (wrap w v) := by
  have hp : (0 : Int) < 2 ^ (w - 1) := by positivity
  have h2 := two_pow_split hw
  have hlt := Int.bmod_lt (x := v) (m := 2 ^ w) (by positivity)
  have hle := Int.le_bmod (x := v) (m := 2 ^ w) (by positivity)
  unfold InRange wrap
  push_cast at hlt hle
  constructor <;> omega

/-- `wrap` is congruent to its argument modulo `2^W`. -/
theorem wrap_congr (w : Nat) (v : Int) : (2 ^ w : Int) ∣ wrap w v - v := by
  have h := Int.bmod_def v (2 ^ w)
  have hd := Int.mul_ediv_add_emod v (2 ^ w)
  unfold wrap
  rw [h]
  push_cast
  split
  · exact ⟨-(v / 2 ^ w), by linarith⟩
  · exact ⟨-(v / 2 ^ w) - 1, by linarith⟩

/-- A W-bit value is its own wrap. -/
theorem wrap_of_inRange {w : Nat} (hw : 1 ≤ w) {v : Int} (h : InRange w v) : wrap w v = v := by
  obtain ⟨k, hk⟩ := wrap_congr w v
  have hr := wrap_inRange hw v
  have h2 := two_pow_split hw
  unfold InRange at h hr
  have hp : (0 : Int) < 2 ^ (w - 1) := by positivity
  have hk0 : k = 0 := by
    rcases lt_trichotomy k 0 with hneg | h0 | hpos
    · exfalso; nlinarith
    · exact h0
    · exfalso; nlinarith
  subst hk0
  linarith

/-- The sign bit of a W-bit value says whether it is negative (00_scope.md R11). -/
theorem sgn_of_inRange {w : Nat} (hw : 1 ≤ w) {v : Int} (h : InRange w v) : sgn w v = decide (v < 0) := by
  unfold sgn
  rw [wrap_of_inRange hw h]

/-- The W-bit range is not empty. -/
theorem zero_inRange (w : Nat) : InRange w 0 := by
  have hp : (0 : Int) < 2 ^ (w - 1) := by positivity
  exact ⟨by linarith, hp⟩

/-- The arithmetic shift stays between 0 and its argument, rounding down (00_scope.md R12). -/
theorem asr_bounds (v : Int) (k : Nat) : asr v k * 2 ^ k ≤ v ∧ v < asr v k * 2 ^ k + 2 ^ k := by
  have hp : (0 : Int) < 2 ^ k := by positivity
  have hd := Int.mul_ediv_add_emod v (2 ^ k)
  have h0 := Int.emod_nonneg v hp.ne'
  have h1 := Int.emod_lt_of_pos v hp
  unfold asr
  constructor <;> linarith

/-- The masked value is the residue modulo `2^F` (00_scope.md R12). -/
theorem maskLow_cast (v : Int) (f : Nat) : (maskLow v f : Int) = v % 2 ^ f :=
  Int.toNat_of_nonneg (Int.emod_nonneg v (by positivity))

theorem maskLow_lt (v : Int) (f : Nat) : maskLow v f < 2 ^ f := by
  have h := Int.emod_lt_of_pos v (show (0 : Int) < 2 ^ f by positivity)
  have hc := maskLow_cast v f
  zify
  linarith

end Sys2Proof.Machine
end

