-- ==== Sys2Proof/Laws/Params.lean ====
section
/-! SUPPORT. What legal parameters give (00_scope.md R9), and that the shift table is a function of the frequency. -/
namespace Sys2Proof

/-- The constraints of 00_scope.md R9 and of log 8, one by one. -/
theorem Params.legal_iff (p : Params) :
    p.legal = true ↔
      (p.w = 2 * p.f ∧ 1 ≤ p.npolesMax ∧ (∀ e ∈ p.shiftTable, e.2 < p.w) ∧ tableOrdered p.shiftTable = true ∧ 0 < p.lagK) ∧
      1 ≤ p.f ∧ p.w ≤ 32 ∧ p.npolesMax ≤ 255 ∧ p.coefBias < 2 ^ (p.w + p.f) ∧ p.cascadeBias < 2 ^ (p.w - p.f) := by
  simp only [Params.legal, Params.meetsR9, Params.fitsRegisters, Bool.and_eq_true, decide_eq_true_eq, List.all_eq_true,
    and_assoc]

theorem Params.default_legal : Params.default.legal = true := by decide

/-- Adjacent order is order of every pair: along the table frequencies fall and shifts rise. -/
theorem pairwise_of_tableOrdered : ∀ {l : List (Nat × Nat)}, tableOrdered l = true →
    l.Pairwise (fun a b => b.1 < a.1 ∧ a.2 < b.2)
  | [], _ => .nil
  | [a], _ => List.pairwise_singleton _ a
  | a :: b :: rest, h => by
    simp only [tableOrdered, Bool.and_eq_true, decide_eq_true_eq] at h
    obtain ⟨⟨h1, h2⟩, h3⟩ := h
    have ih := pairwise_of_tableOrdered h3
    refine List.pairwise_cons.2 ⟨fun c hc => ?_, ih⟩
    rcases List.mem_cons.1 hc with rfl | hc
    · exact ⟨h1, h2⟩
    · have hb := (List.pairwise_cons.1 ih).1 c hc
      exact ⟨by omega, by omega⟩

/-- The lookup finds a pair of the table. -/
theorem mem_of_lookup : ∀ {l : List (Nat × Nat)} {a k : Nat}, l.lookup a = some k → (a, k) ∈ l
  | [], _, _, h => by simp at h
  | (x, y) :: rest, a, k, h => by
    by_cases hx : a = x
    · subst hx
      simp only [List.lookup_cons_self, Option.some.injEq] at h
      simp [h]
    · rw [List.lookup_cons, beq_false_of_ne hx] at h
      exact List.mem_cons_of_mem _ (mem_of_lookup h)

/-- The lookup fails exactly for a frequency the table does not list. -/
theorem lookup_none_iff : ∀ {l : List (Nat × Nat)} {a : Nat}, l.lookup a = none ↔ a ∉ l.map Prod.fst
  | [], _ => by simp
  | (x, y) :: rest, a => by
    by_cases hx : a = x
    · subst hx; simp
    · rw [List.lookup_cons, beq_false_of_ne hx]
      simp [hx, lookup_none_iff]

theorem Params.shiftFor_none_iff (p : Params) (fc : Nat) : p.shiftFor fc = none ↔ fc ∉ p.shiftFreqs := lookup_none_iff

end Sys2Proof
end

