-- ==== Sys2Proof/Laws/State.lean ====
section
/-! SUPPORT. One lemma per register and named update of the state: what `report`, `setRes`, `commit` and `setActivePoles`
leave in each register, true by rfl, so that no later proof unfolds a record update. -/
namespace Sys2Proof.Machine

variable (s : State) (v : Word) (c : Cause) (b : Bool) (fc t : Word) (x : Int)

/-! ### `State.report` -/

@[simp] theorem State.report_hw : (s.report c b).hw = s.hw := rfl
@[simp] theorem State.report_poles : (s.report c b).poles = s.poles := rfl
@[simp] theorem State.report_n : (s.report c b).n = s.n := rfl
@[simp] theorem State.report_fc : (s.report c b).fc = s.fc := rfl
@[simp] theorem State.report_t : (s.report c b).t = s.t := rfl
@[simp] theorem State.report_coef : (s.report c b).coef = s.coef := rfl
@[simp] theorem State.report_shift : (s.report c b).shift = s.shift := rfl
@[simp] theorem State.report_adcBits : (s.report c b).adcBits = s.adcBits := rfl
@[simp] theorem State.report_en : (s.report c b).en = s.en := rfl
@[simp] theorem State.report_restart : (s.report c b).restart = s.restart := rfl
@[simp] theorem State.report_cfgValid : (s.report c b).cfgValid = s.cfgValid := rfl
@[simp] theorem State.report_inited : (s.report c b).inited = s.inited := rfl
@[simp] theorem State.report_arg0 : (s.report c b).arg0 = s.arg0 := rfl
@[simp] theorem State.report_arg1 : (s.report c b).arg1 = s.arg1 := rfl
@[simp] theorem State.report_arg2 : (s.report c b).arg2 = s.arg2 := rfl
@[simp] theorem State.report_arg3 : (s.report c b).arg3 = s.arg3 := rfl
@[simp] theorem State.report_arg4 : (s.report c b).arg4 = s.arg4 := rfl
@[simp] theorem State.report_res : (s.report c b).res = s.res := rfl
@[simp] theorem State.report_stat : (s.report c b).stat = statWord c b := rfl
@[simp] theorem State.report_bus : (s.report c b).bus = s.bus := rfl
@[simp] theorem State.report_resp : (s.report c b).resp = s.resp := rfl

/-! ### `State.setRes` -/

@[simp] theorem State.setRes_hw : (s.setRes v).hw = s.hw := rfl
@[simp] theorem State.setRes_poles : (s.setRes v).poles = s.poles := rfl
@[simp] theorem State.setRes_n : (s.setRes v).n = s.n := rfl
@[simp] theorem State.setRes_fc : (s.setRes v).fc = s.fc := rfl
@[simp] theorem State.setRes_t : (s.setRes v).t = s.t := rfl
@[simp] theorem State.setRes_coef : (s.setRes v).coef = s.coef := rfl
@[simp] theorem State.setRes_shift : (s.setRes v).shift = s.shift := rfl
@[simp] theorem State.setRes_adcBits : (s.setRes v).adcBits = s.adcBits := rfl
@[simp] theorem State.setRes_en : (s.setRes v).en = s.en := rfl
@[simp] theorem State.setRes_restart : (s.setRes v).restart = s.restart := rfl
@[simp] theorem State.setRes_cfgValid : (s.setRes v).cfgValid = s.cfgValid := rfl
@[simp] theorem State.setRes_inited : (s.setRes v).inited = s.inited := rfl
@[simp] theorem State.setRes_arg0 : (s.setRes v).arg0 = s.arg0 := rfl
@[simp] theorem State.setRes_arg1 : (s.setRes v).arg1 = s.arg1 := rfl
@[simp] theorem State.setRes_arg2 : (s.setRes v).arg2 = s.arg2 := rfl
@[simp] theorem State.setRes_arg3 : (s.setRes v).arg3 = s.arg3 := rfl
@[simp] theorem State.setRes_arg4 : (s.setRes v).arg4 = s.arg4 := rfl
@[simp] theorem State.setRes_res : (s.setRes v).res = v := rfl
@[simp] theorem State.setRes_stat : (s.setRes v).stat = s.stat := rfl
@[simp] theorem State.setRes_bus : (s.setRes v).bus = s.bus := rfl
@[simp] theorem State.setRes_resp : (s.setRes v).resp = s.resp := rfl

/-! ### `commit` -/

@[simp] theorem commit_hw : (commit fc t s).hw = s.hw := rfl
@[simp] theorem commit_poles : (commit fc t s).poles = s.poles := rfl
@[simp] theorem commit_n : (commit fc t s).n = s.n := rfl
@[simp] theorem commit_fc : (commit fc t s).fc = fc := rfl
@[simp] theorem commit_t : (commit fc t s).t = t := rfl
@[simp] theorem commit_coef : (commit fc t s).coef = s.coef := rfl
@[simp] theorem commit_shift : (commit fc t s).shift = s.shift := rfl
@[simp] theorem commit_adcBits : (commit fc t s).adcBits = s.adcBits := rfl
@[simp] theorem commit_en : (commit fc t s).en = s.en := rfl
@[simp] theorem commit_restart : (commit fc t s).restart = (s.restart || s.hw.restartOnReconfig) := rfl
@[simp] theorem commit_cfgValid : (commit fc t s).cfgValid = true := rfl
@[simp] theorem commit_inited : (commit fc t s).inited = s.inited := rfl
@[simp] theorem commit_arg0 : (commit fc t s).arg0 = s.arg0 := rfl
@[simp] theorem commit_arg1 : (commit fc t s).arg1 = s.arg1 := rfl
@[simp] theorem commit_arg2 : (commit fc t s).arg2 = s.arg2 := rfl
@[simp] theorem commit_arg3 : (commit fc t s).arg3 = s.arg3 := rfl
@[simp] theorem commit_arg4 : (commit fc t s).arg4 = s.arg4 := rfl
@[simp] theorem commit_res : (commit fc t s).res = s.res := rfl
@[simp] theorem commit_stat : (commit fc t s).stat = s.stat := rfl
@[simp] theorem commit_bus : (commit fc t s).bus = s.bus := rfl
@[simp] theorem commit_resp : (commit fc t s).resp = s.resp := rfl

/-! ### `setActivePoles` -/

@[simp] theorem setActivePoles_hw : (setActivePoles x s).hw = s.hw := rfl
@[simp] theorem setActivePoles_poles : (setActivePoles x s).poles = (s.poles.take s.n).map (fun _ => x) ++ s.poles.drop s.n := rfl
@[simp] theorem setActivePoles_n : (setActivePoles x s).n = s.n := rfl
@[simp] theorem setActivePoles_fc : (setActivePoles x s).fc = s.fc := rfl
@[simp] theorem setActivePoles_t : (setActivePoles x s).t = s.t := rfl
@[simp] theorem setActivePoles_coef : (setActivePoles x s).coef = s.coef := rfl
@[simp] theorem setActivePoles_shift : (setActivePoles x s).shift = s.shift := rfl
@[simp] theorem setActivePoles_adcBits : (setActivePoles x s).adcBits = s.adcBits := rfl
@[simp] theorem setActivePoles_en : (setActivePoles x s).en = s.en := rfl
@[simp] theorem setActivePoles_restart : (setActivePoles x s).restart = s.restart := rfl
@[simp] theorem setActivePoles_cfgValid : (setActivePoles x s).cfgValid = s.cfgValid := rfl
@[simp] theorem setActivePoles_inited : (setActivePoles x s).inited = s.inited := rfl
@[simp] theorem setActivePoles_arg0 : (setActivePoles x s).arg0 = s.arg0 := rfl
@[simp] theorem setActivePoles_arg1 : (setActivePoles x s).arg1 = s.arg1 := rfl
@[simp] theorem setActivePoles_arg2 : (setActivePoles x s).arg2 = s.arg2 := rfl
@[simp] theorem setActivePoles_arg3 : (setActivePoles x s).arg3 = s.arg3 := rfl
@[simp] theorem setActivePoles_arg4 : (setActivePoles x s).arg4 = s.arg4 := rfl
@[simp] theorem setActivePoles_res : (setActivePoles x s).res = s.res := rfl
@[simp] theorem setActivePoles_stat : (setActivePoles x s).stat = s.stat := rfl
@[simp] theorem setActivePoles_bus : (setActivePoles x s).bus = s.bus := rfl
@[simp] theorem setActivePoles_resp : (setActivePoles x s).resp = s.resp := rfl

end Sys2Proof.Machine
end

