-- ==== Sys2Proof/Laws/Words.lean ====
section
/-! SUPPORT. The status word field by field (10_state.md R37): what `report` leaves in `STAT`. -/
namespace Sys2Proof.Machine

@[simp] theorem statOk_statWord (c : Cause) (b : Bool) : statOk (statWord c b) = decide (c = .none) := by
  cases c <;> cases b <;> decide

@[simp] theorem statCause_statWord (c : Cause) (b : Bool) : statCause (statWord c b) = c.code := by
  cases c <;> cases b <;> decide

@[simp] theorem statSeed_statWord (c : Cause) (b : Bool) : statSeed (statWord c b) = b := by
  cases c <;> cases b <;> decide

/-- Different causes have different codes (60_exceptions.md R221). -/
theorem Cause.code_injective {c c' : Cause} (h : c.code = c'.code) : c = c' := by
  cases c <;> cases c' <;> first | rfl | exact absurd h (by decide)

@[simp] theorem Cause.code_inj (c c' : Cause) : c.code = c'.code ↔ c = c' :=
  ⟨Cause.code_injective, congrArg _⟩

/-! The values of `STAT` (the notation of 95_test_vectors.md). -/

theorem statWord_none : statWord .none false = 0x00000001 := by decide
theorem statWord_seed : statWord .none true = 0x00000101 := by decide
theorem statWord_disabled : statWord .disabled false = 0x00000010 := by decide
theorem statWord_configRejected : statWord .configRejected false = 0x00000020 := by decide
theorem statWord_overflow : statWord .overflow false = 0x00000030 := by decide
theorem statWord_badArg : statWord .badArg false = 0x00000040 := by decide
theorem statWord_notInit : statWord .notInit false = 0x00000050 := by decide
theorem statWord_illegal : statWord .illegal false = 0x00000060 := by decide

end Sys2Proof.Machine
end

