-- ==== Sys2Proof/Laws/Ops.lean ====
section
/-! SUPPORT. What each shared operation can do, said once: configuration, the stages of the cascade, seeding and recovery,
and where an access falls. -/
namespace Sys2Proof.Machine

/-! ### Configuration (40_configure.md R100 to R108) -/

/-- A successful `Configure` commits the pair and writes one of `COEF` and `SHIFT`. -/
theorem configure_some {fc t : Word} {s u : State} (h : configure fc t s = some u) :
    (s.hw.variant = .mul ∧ ∃ c, deriveCoef s.hw (u32 fc) (u32 t) = some c ∧ u = commit fc t { s with coef := c }) ∨
    (s.hw.variant = .shift ∧ ∃ k, deriveShift s.hw (u32 fc) (u32 t) = some k ∧ u = commit fc t { s with shift := k }) := by
  unfold configure at h
  cases hv : s.hw.variant with
  | mul =>
    rw [hv] at h
    unfold configureMul at h
    cases hc : deriveCoef s.hw (u32 fc) (u32 t) with
    | none => simp [hc] at h
    | some c => simp only [hc, Option.some.injEq] at h; exact .inl ⟨rfl, c, rfl, h.symm⟩
  | shift =>
    rw [hv] at h
    unfold configureShift at h
    cases hc : deriveShift s.hw (u32 fc) (u32 t) with
    | none => simp [hc] at h
    | some c => simp only [hc, Option.some.injEq] at h; exact .inr ⟨rfl, c, rfl, h.symm⟩

/-- `Configure` looks at the parameters and its arguments only: whether it succeeds is the same in every state. -/
theorem configure_isSome_congr {fc t : Word} {a b : State} (h : a.hw = b.hw) :
    (configure fc t a).isSome = (configure fc t b).isSome := by
  unfold configure configureMul configureShift
  rw [h]
  split <;> split <;> rfl

/-- A derived coefficient passed R101 and R102, and is the rounded product of R104. -/
theorem deriveCoef_some {p : Params} {fc t c : Nat} (h : deriveCoef p fc t = some c) :
    fc ≠ 0 ∧ t ≠ 0 ∧ accumOf p fc t < 2 ^ p.w ∧
      c = (accumOf p fc t * (2 ^ p.w - accumOf p fc t) + p.coefBias) / 2 ^ (p.w + p.f) := by
  unfold deriveCoef at h
  split at h
  · simp at h
  · next hn =>
    simp only [not_or, not_le] at hn
    exact ⟨hn.1, hn.2.1, hn.2.2, by simpa using h.symm⟩

/-- R101 and R102 are the only grounds for rejection (40_configure.md R100). -/
theorem deriveCoef_none_iff {p : Params} {fc t : Nat} :
    deriveCoef p fc t = none ↔ fc = 0 ∨ t = 0 ∨ 2 ^ p.w ≤ accumOf p fc t := by
  unfold deriveCoef
  split <;> simp [*]

theorem deriveShift_some {p : Params} {fc t k : Nat} (h : deriveShift p fc t = some k) :
    t = p.refPeriod ∧ p.shiftFor fc = some k := by
  unfold deriveShift at h
  split at h
  · exact ⟨by assumption, h⟩
  · simp at h

theorem deriveShift_none_iff {p : Params} {fc t : Nat} :
    deriveShift p fc t = none ↔ t ≠ p.refPeriod ∨ fc ∉ p.shiftFreqs := by
  unfold deriveShift
  split
  · simp [p.shiftFor_none_iff, *]
  · simp [*]

theorem reconfigureDue_iff (req : Word) (s : State) :
    reconfigureDue req s = true ↔ req ≠ s.fc ∨ s.cfgValid = false := by
  simp [reconfigureDue]

theorem reconfigureDue_eq_false_iff (req : Word) (s : State) :
    reconfigureDue req s = false ↔ req = s.fc ∧ s.cfgValid = true := by
  simp [reconfigureDue]

/-- Step 3 of APPLY: either nothing is due and nothing changes, or `Configure` ran on the stored `T` (40_configure.md R117). -/
theorem reconfigure_some {req : Word} {s u : State} (h : reconfigure req s = some u) :
    (req = s.fc ∧ s.cfgValid = true ∧ u = s) ∨
    ((req ≠ s.fc ∨ s.cfgValid = false) ∧ configure req s.t s = some u) := by
  unfold reconfigure at h
  split at h
  · next hd => exact .inr ⟨(reconfigureDue_iff req s).1 hd, h⟩
  · next hd =>
    have hd := (reconfigureDue_eq_false_iff req s).1 (by simpa using hd)
    exact .inl ⟨hd.1, hd.2, by simpa using h.symm⟩

/-- `Configure` and step 3 neither read nor write `RES`: step 1 of APPLY, which writes it, commutes with them. -/
theorem configure_setRes (fc t v : Word) (s : State) :
    configure fc t (s.setRes v) = (configure fc t s).map (·.setRes v) := by
  unfold configure configureMul configureShift
  simp only [State.setRes_hw]
  split <;> split <;> rfl

theorem reconfigure_setRes (req v : Word) (s : State) :
    reconfigure req (s.setRes v) = (reconfigure req s).map (·.setRes v) := by
  unfold reconfigure
  rw [show reconfigureDue req (s.setRes v) = reconfigureDue req s from rfl, State.setRes_t, configure_setRes]
  split <;> rfl

/-- Step 3 writes configuration registers and `RESTART` only. -/
theorem reconfigure_frame {req : Word} {s u : State} (h : reconfigure req s = some u) :
    u = { s with fc := u.fc, t := u.t, coef := u.coef, shift := u.shift, cfgValid := u.cfgValid, restart := u.restart } := by
  rcases reconfigure_some h with ⟨-, -, rfl⟩ | ⟨-, h⟩
  · rfl
  · rcases configure_some h with ⟨-, c, -, rfl⟩ | ⟨-, k, -, rfl⟩ <;> rfl

/-! ### The cascade (41_apply.md R150 to R152) -/

/-- A lag value in the SHIFT variant is never refused (41_apply.md R148). -/
theorem lagValue_shift {p : Params} (h : p.variant = .shift) (coef shift : Nat) (d : Int) :
    lagValue p coef shift d = .ok (asr d shift) := by
  unfold lagValue; rw [h]; rfl

/-- A stage that passes: none of its checks fired, and the new pole is the wrapped sum (41_apply.md R150). -/
theorem stage_ok {p : Params} {coef shift : Nat} {cur pole np : Int} (h : stage p coef shift cur pole = .ok np) :
    subCheck p cur pole (wrap p.w (cur - pole)) = false ∧
    ∃ lag, lagValue p coef shift (wrap p.w (cur - pole)) = .ok lag ∧ np = wrap p.w (lag + pole) ∧
      ovf p.w lag pole np = false := by
  unfold stage at h
  split at h
  · simp at h
  · next hs =>
    refine ⟨by simpa using hs, ?_⟩
    split at h
    · simp at h
    · next lag hl =>
      unfold addPole at h
      split at h
      · simp at h
      · next ho =>
        simp only [Except.ok.injEq] at h
        exact ⟨lag, hl, h.symm, by rw [← h]; simpa using ho⟩

/-- A completed cascade gives one new pole per stage. -/
theorem cascadePoles_length {p : Params} {coef shift : Nat} :
    ∀ {ps : List Int} {cur : Int} {nps : List Int} {out : Int},
      cascadePoles p coef shift ps cur = .ok (nps, out) → nps.length = ps.length
  | [], _, _, _, h => by simp [cascadePoles] at h; simp [h.1.symm]
  | pole :: rest, cur, nps, out, h => by
    unfold cascadePoles at h
    split at h
    · simp at h
    · split at h
      · simp at h
      · next np _ nps' out' hr =>
        simp only [Except.ok.injEq, Prod.mk.injEq] at h
        rw [← h.1, List.length_cons, cascadePoles_length hr, List.length_cons]

/-- A completed cascade leaves W-bit values. -/
theorem cascadePoles_inRange {p : Params} (hw : 1 ≤ p.w) {coef shift : Nat} :
    ∀ {ps : List Int} {cur : Int} {nps : List Int} {out : Int},
      cascadePoles p coef shift ps cur = .ok (nps, out) → ∀ v ∈ nps, InRange p.w v
  | [], _, _, _, h, v, hv => by simp [cascadePoles] at h; simp [h.1] at hv
  | pole :: rest, cur, nps, out, h, v, hv => by
    unfold cascadePoles at h
    split at h
    · simp at h
    · next np hnp =>
      split at h
      · simp at h
      · next nps' out' hr =>
        simp only [Except.ok.injEq, Prod.mk.injEq] at h
        rw [← h.1] at hv
        rcases List.mem_cons.1 hv with rfl | hv
        · obtain ⟨-, lag, -, rfl, -⟩ := stage_ok hnp
          exact wrap_inRange hw _
        · exact cascadePoles_inRange hw hr v hv

/-- Writing the active poles keeps the size of the bank (10_state.md R22). -/
theorem setActivePoles_length (x : Int) (s : State) : (setActivePoles x s).poles.length = s.poles.length := by
  simp only [setActivePoles_poles, List.length_append, List.length_map, List.length_take, List.length_drop]
  omega

/-- Every active pole holds the value written (41_apply.md R151, R152). -/
theorem setActivePoles_active (x : Int) (s : State) {k : Nat} (h : k < s.n) (hl : k < s.poles.length) :
    (setActivePoles x s).poles[k]? = some x := by
  rw [setActivePoles_poles, List.getElem?_append_left (by simp; omega)]
  simp [h, hl]

/-- The poles from `N` on are never written (41_apply.md R159). -/
theorem setActivePoles_beyond (x : Int) (s : State) {k : Nat} (h : s.n ≤ k) :
    (setActivePoles x s).poles[k]? = s.poles[k]? := by
  rw [setActivePoles_poles]
  by_cases hl : s.n ≤ s.poles.length
  · rw [List.getElem?_append_right (by simp; omega)]
    simp only [List.length_map, List.length_take, List.getElem?_drop]
    congr 1; omega
  · rw [List.getElem?_append_right (by simp; omega)]
    simp [List.drop_eq_nil_of_le (by omega : s.poles.length ≤ s.n), List.getElem?_eq_none (by omega : s.poles.length ≤ k)]

/-- `Cascade` either recovers, because a stage failed, or stores the new poles and succeeds (41_apply.md R150, R151). -/
theorem cascade_cases (sc : Int) (s : State) :
    (∃ c, cascadePoles s.hw s.coef s.shift (s.poles.take s.n) sc = .error c ∧ cascade sc s = recover sc s) ∨
    (∃ nps out, cascadePoles s.hw s.coef s.shift (s.poles.take s.n) sc = .ok (nps, out) ∧
      cascade sc s = { s with
        poles := nps ++ s.poles.drop s.n, res := resPattern out, stat := statWord .none false }) := by
  unfold cascade
  cases h : cascadePoles s.hw s.coef s.shift (s.poles.take s.n) sc with
  | error c => exact .inl ⟨c, rfl, rfl⟩
  | ok r => exact .inr ⟨r.1, r.2, rfl, rfl⟩

/-! ### Where an access falls (20_memory.md R50, R52) -/

theorem locate_reg (p : Params) {off : Nat} (h : off < 64) (h4 : off % 4 = 0) : locate p (p.base + off) 4 = .reg off := by
  unfold locate
  rw [if_neg (by omega), Nat.add_sub_cancel_left, if_pos ⟨rfl, h4⟩]

theorem locate_misaccess (p : Params) {off n : Nat} (h : off < 64) (hn : n ≠ 4 ∨ off % 4 ≠ 0) :
    locate p (p.base + off) n = .misaccess := by
  unfold locate
  rw [if_neg (by omega), Nat.add_sub_cancel_left, if_neg (by omega)]

theorem locate_outside (p : Params) {addr n : Nat} (h : addr < p.base ∨ p.base + 64 ≤ addr) :
    locate p addr n = .outside := by
  unfold locate; rw [if_pos h]

/-- An admitted access is 4 bytes at an aligned offset below 64. -/
theorem locate_eq_reg {p : Params} {addr n off : Nat} (h : locate p addr n = .reg off) :
    addr = p.base + off ∧ n = 4 ∧ off % 4 = 0 ∧ off < 64 := by
  unfold locate at h
  split at h
  · simp at h
  · split at h
    · next h1 h2 => simp only [Place.reg.injEq] at h; omega
    · simp at h

end Sys2Proof.Machine
end

