-- ==== Sys2Proof/Laws/Exec.lean ====
section
/-! SUPPORT. One inversion lemma per command: the state it answers, case by case. -/
namespace Sys2Proof.Machine

/-- INIT answers a rejected argument or a constructed filter (40_configure.md R110). -/
theorem execInit_next {e : Bool} {s t : State} (h : execInit e s = .next t) :
    (initRejects s = true ∧ t = s.report .badArg false) ∨
    (initRejects s = false ∧ t = (initConfigured (initRegisters e s)).report .none false) := by
  unfold execInit at h
  split at h
  · next hr => exact .inl ⟨hr, by simpa using h.symm⟩
  · next hr => exact .inr ⟨by simpa using hr, by simpa using h.symm⟩

/-- CONFIG answers `NOT_INIT`, `CONFIG_REJECTED` or the committed configuration (40_configure.md R116). -/
theorem execConfig_next {s t : State} (h : execConfig s = .next t) :
    (s.inited = false ∧ t = s.report .notInit false) ∨
    (s.inited = true ∧ configure s.arg0 s.arg1 s = none ∧ t = s.report .configRejected false) ∨
    (∃ u, s.inited = true ∧ configure s.arg0 s.arg1 s = some u ∧ t = u.report .none false) := by
  unfold execConfig at h
  split at h
  · next hi => exact .inl ⟨hi, by simpa using h.symm⟩
  · next hi =>
    have hi : s.inited = true := by simpa using hi
    split at h
    · next u hu => exact .inr (.inr ⟨u, hi, hu, by simpa using h.symm⟩)
    · next hu => exact .inr (.inl ⟨hi, hu, by simpa using h.symm⟩)

/-- The five ways a tick ends (41_apply.md R153, in the order of 60_exceptions.md R224). -/
theorem tickAfterScaling_cases (sc : Int) (s : State) :
    (s.inited = false ∧ tickAfterScaling sc s = s.report .notInit false) ∨
    (s.inited = true ∧ s.en = false ∧ tickAfterScaling sc s = s.report .disabled false) ∨
    (s.inited = true ∧ s.en = true ∧ reconfigure s.arg1 s = none ∧
      tickAfterScaling sc s = s.report .configRejected false) ∨
    (∃ u, s.inited = true ∧ s.en = true ∧ reconfigure s.arg1 s = some u ∧ u.restart = true ∧
      tickAfterScaling sc s = seedTick sc u) ∨
    (∃ u, s.inited = true ∧ s.en = true ∧ reconfigure s.arg1 s = some u ∧ u.restart = false ∧
      tickAfterScaling sc s = cascade sc u) := by
  unfold tickAfterScaling
  split
  · next hi => exact .inl ⟨hi, rfl⟩
  · next hi =>
    have hi : s.inited = true := by simpa using hi
    split
    · next he => exact .inr (.inl ⟨hi, he, rfl⟩)
    · next he =>
      have he : s.en = true := by simpa using he
      split
      · next hr => exact .inr (.inr (.inl ⟨hi, he, hr, rfl⟩))
      · next u hr =>
        split
        · next hres => exact .inr (.inr (.inr (.inl ⟨u, hi, he, hr, hres, rfl⟩)))
        · next hres => exact .inr (.inr (.inr (.inr ⟨u, hi, he, hr, by simpa using hres, rfl⟩)))

/-- RESTART answers `NOT_INIT` or the flag set (42_control.md R190). -/
theorem execRestart_next {s t : State} (h : execRestart s = .next t) :
    (s.inited = false ∧ t = s.report .notInit false) ∨
    (s.inited = true ∧ t = { s with restart := true }.report .none false) := by
  unfold execRestart at h
  split at h
  · next hi => exact .inl ⟨hi, by simpa using h.symm⟩
  · next hi => exact .inr ⟨by simpa using hi, by simpa using h.symm⟩

/-- SETEN answers `NOT_INIT`, enables and restarts, disables, or changes nothing but `STAT` (42_control.md R191). -/
theorem execSeten_next {e : Bool} {s t : State} (h : execSeten e s = .next t) :
    (s.inited = false ∧ t = s.report .notInit false) ∨
    (s.inited = true ∧ e = true ∧ s.en = false ∧ t = { s with en := true, restart := true }.report .none false) ∨
    (s.inited = true ∧ e = false ∧ t = { s with en := false }.report .none false) ∨
    (s.inited = true ∧ e = true ∧ s.en = true ∧ t = s.report .none false) := by
  unfold execSeten at h
  split at h
  · next hi => exact .inl ⟨hi, by simpa using h.symm⟩
  · next hi =>
    have hi : s.inited = true := by simpa using hi
    split at h
    · next hb => exact .inr (.inl ⟨hi, hb.1, hb.2, by simpa using h.symm⟩)
    · next hb =>
      split at h
      · next he => exact .inr (.inr (.inl ⟨hi, he, by simpa using h.symm⟩))
      · next he => exact .inr (.inr (.inr ⟨hi, by simpa using he, by simp at he; simpa [he] using hb, by simpa using h.symm⟩))

/-- RDADC answers `NOT_INIT` or the resolution (42_control.md R192). -/
theorem execRdadc_next {s t : State} (h : execRdadc s = .next t) :
    (s.inited = false ∧ t = s.report .notInit false) ∨
    (s.inited = true ∧ t = (s.setRes s.adcBits).report .none false) := by
  unfold execRdadc at h
  split at h
  · next hi => exact .inl ⟨hi, by simpa using h.symm⟩
  · next hi => exact .inr ⟨by simpa using hi, by simpa using h.symm⟩

/-- No command stops: each answers a next state (60_exceptions.md R220). -/
theorem exec_answers (i : Instr) (s : State) : ∃ t, exec i s = .next t := by
  cases i with
  | init e => simp only [exec, execInit]; split <;> exact ⟨_, rfl⟩
  | config =>
    simp only [exec, execConfig]
    split
    · exact ⟨_, rfl⟩
    · split <;> exact ⟨_, rfl⟩
  | apply => exact ⟨_, rfl⟩
  | restart => simp only [exec, execRestart]; split <;> exact ⟨_, rfl⟩
  | seten e =>
    simp only [exec, execSeten]
    split
    · exact ⟨_, rfl⟩
    · split
      · exact ⟨_, rfl⟩
      · split <;> exact ⟨_, rfl⟩
  | rdadc => simp only [exec, execRdadc]; split <;> exact ⟨_, rfl⟩
  | rdwidth => exact ⟨_, rfl⟩

end Sys2Proof.Machine
end

