-- ==== Sys2Proof/Laws/Bus.lean ====
section
/-! SUPPORT. What a step does with the next event, said once; the host's program keeps its one host as it runs. -/
namespace Sys2Proof.Machine

/-- A step is its event's effect, where the program may run (20_memory.md R57). -/
theorem step_cons {s : State} {ev : HostEvent} {rest : List HostEvent} (hl : s.hw.legal = true)
    (ho : oneHost s.bus = true) (hb : s.bus = ev :: rest) : step s = performEvent ev { s with bus := rest } := by
  unfold step performNext
  rw [if_neg (by simp [hl]), if_neg (by simp [ho]), hb]

/-- Where a step answers, the parameters are legal, the program has one host, and it was idle or an event. -/
theorem step_next {s t : State} (h : step s = .next t) :
    s.hw.legal = true ∧ oneHost s.bus = true ∧
      ((s.bus = [] ∧ t = s) ∨ ∃ ev rest, s.bus = ev :: rest ∧ performEvent ev { s with bus := rest } = .next t) := by
  unfold step performNext at h
  split at h
  · simp at h
  · next hl =>
    split at h
    · simp at h
    · next ho =>
      refine ⟨by simpa using hl, by simpa using ho, ?_⟩
      split at h
      · next hb => exact .inl ⟨hb, by simpa using h.symm⟩
      · next ev rest hb => exact .inr ⟨ev, rest, hb, h⟩

theorem allOfAgent_iff (a : Nat) : ∀ evs : List HostEvent,
    allOfAgent a evs = true ↔ ∀ b op, HostEvent.access b op ∈ evs → b = a
  | [] => by simp [allOfAgent]
  | .access b op :: rest => by
    simp only [allOfAgent, Bool.and_eq_true, decide_eq_true_eq, allOfAgent_iff a rest, List.mem_cons,
      HostEvent.access.injEq]
    constructor
    · rintro ⟨rfl, h⟩ b' op' (⟨rfl, -⟩ | h')
      · rfl
      · exact h _ _ h'
    · intro h
      exact ⟨h _ _ (.inl ⟨rfl, rfl⟩), fun b' op' h' => h _ _ (.inr h')⟩
  | .reset x :: rest => by
    simp [allOfAgent, allOfAgent_iff a rest]

/-- The recorded agent is that of some pending access. -/
theorem hostAgent_mem : ∀ {evs : List HostEvent} {a : Nat}, hostAgent evs = some a → ∃ op, HostEvent.access a op ∈ evs
  | .access b op :: rest, a, h => by
    simp only [hostAgent, Option.some.injEq] at h
    exact ⟨op, by simp [h]⟩
  | .reset x :: rest, a, h => by
    obtain ⟨op, hop⟩ := hostAgent_mem (evs := rest) (by simpa [hostAgent] using h)
    exact ⟨op, List.mem_cons_of_mem _ hop⟩

theorem hostAgent_none : ∀ {evs : List HostEvent}, hostAgent evs = none → ∀ a op, HostEvent.access a op ∉ evs
  | [], _, _, _ => by simp
  | .access b op :: rest, h, _, _ => by simp [hostAgent] at h
  | .reset x :: rest, h, a, op => by
    simpa using hostAgent_none (evs := rest) (by simpa [hostAgent] using h) a op

/-- One host: any two pending accesses are of the same agent (20_memory.md R60). -/
theorem oneHost_iff (evs : List HostEvent) :
    oneHost evs = true ↔ ∀ a x b y, HostEvent.access a x ∈ evs → HostEvent.access b y ∈ evs → a = b := by
  unfold oneHost
  cases h : hostAgent evs with
  | none =>
    simp only [true_iff]
    intro a x b y ha
    exact absurd ha (hostAgent_none h a x)
  | some a =>
    simp only [allOfAgent_iff]
    obtain ⟨op, hop⟩ := hostAgent_mem h
    constructor
    · intro hall b x c y hb hc
      rw [hall b x hb, hall c y hc]
    · intro hall b x hb
      exact hall b x a op hb hop

/-- What is left of a program with one host has one host. -/
theorem oneHost_tail {ev : HostEvent} {rest : List HostEvent} (h : oneHost (ev :: rest) = true) : oneHost rest = true := by
  rw [oneHost_iff] at h ⊢
  intro a x b y ha hb
  exact h a x b y (List.mem_cons_of_mem _ ha) (List.mem_cons_of_mem _ hb)

end Sys2Proof.Machine
end

