-- ==== Sys2Proof/Laws/PerInstr.lean ====
section
/-! SUPPORT. Laws of every command as syntax, one lemma per constructor: the shape of its word (30_encoding.md R70). -/

/-- The reserved bits of a command's word are 0, its opcode is one of the seven, and `E` is set only in INIT and SETEN. -/
def Sys2Proof.Laws.EncodingShape.Statement (i : Sys2Proof.Instr) : Prop :=
  Sys2Proof.rsvField (Sys2Proof.encode i) = 0 ∧ 1 ≤ (Sys2Proof.opField (Sys2Proof.encode i)).toNat ∧
    (Sys2Proof.opField (Sys2Proof.encode i)).toNat ≤ 7 ∧
    (Sys2Proof.eField (Sys2Proof.encode i) = true →
      (Sys2Proof.opField (Sys2Proof.encode i)).toNat = 1 ∨ (Sys2Proof.opField (Sys2Proof.encode i)).toNat = 5)

namespace Sys2Proof.Laws.EncodingShape

theorem init (e : Bool) : Statement (.init e) := by unfold Statement; revert e; decide
theorem config : Statement .config := by unfold Statement; decide
theorem apply : Statement .apply := by unfold Statement; decide
theorem restart : Statement .restart := by unfold Statement; decide
theorem seten (e : Bool) : Statement (.seten e) := by unfold Statement; revert e; decide
theorem rdadc : Statement .rdadc := by unfold Statement; decide
theorem rdwidth : Statement .rdwidth := by unfold Statement; decide

end Sys2Proof.Laws.EncodingShape
end

