-- ==== Sys2Proof/Tests/Slice0.lean ====
section
/-! SUPPORT. Tests of one step each, with results from 95_test_vectors.md or the rule's own example, and for every
obligation with hypotheses a state and operands that meet them (`test_hyps_<obligation>`), each clause at a boundary. -/
namespace Sys2Proof.Tests
open Sys2Proof Sys2Proof.Machine

/-! ### Helpers -/

/-- The state an outcome goes on with. -/
def after : Host.Outcome State Fault Refusal → Option State
  | .next s => some s
  | .fault _ => none
  | .refused _ => none

/-- The fault an outcome stops with. -/
def faultOf : Host.Outcome State Fault Refusal → Option Fault
  | .next _ => none
  | .fault f => some f
  | .refused _ => none

/-- The refusal an outcome stops with. -/
def refusalOf : Host.Outcome State Fault Refusal → Option Refusal
  | .next _ => none
  | .fault _ => none
  | .refused r => some r

def shiftParams : Params := { Params.default with variant := .shift }
def twosParams : Params := { Params.default with subOvfRule := .twosComplementSub }
def restartParams : Params := { Params.default with restartOnReconfig := true }
/-- The narrowest core the parameter rules admit with two fractional bits. -/
def tinyParams : Params :=
  { Params.default with w := 4, f := 2, coefBias := 32, cascadeBias := 2, shiftTable := [] }
/-- A core whose window is not at 0. -/
def basedParams : Params := { Params.default with base := 0x100 }

/-- A core with parameters `p` in Enabled-Steady, configured for 50 Hz and period 50, with these active poles. -/
def running (p : Params) (ps : List Int) : State :=
  { State.resetWith p with
    inited := true, en := true, restart := false, cfgValid := true, n := ps.length, fc := 50, t := 50, coef := 1013,
    shift := 6, adcBits := 12, stat := 0x00000001, poles := ps ++ List.replicate (p.npolesMax - ps.length) 0 }

/-- `s` with the operands of an APPLY or a CONFIG. -/
def withArgs (a b : Int) (s : State) : State := { s with arg0 := BitVec.ofInt 32 a, arg1 := BitVec.ofInt 32 b }

/-- `s` with INIT's operands. -/
def withInit (fc t coef0 adcBits n : Nat) (s : State) : State :=
  { s with
    arg0 := BitVec.ofNat 32 fc, arg1 := BitVec.ofNat 32 t, arg2 := BitVec.ofNat 32 coef0,
    arg3 := BitVec.ofNat 32 adcBits, arg4 := BitVec.ofNat 32 n }

/-- `s` with these events pending. -/
def pending (evs : List HostEvent) (s : State) : State := { s with bus := evs }

/-- What the host can read of an outcome: `RES`, `STAT`, `STATE`. -/
def visible (o : Host.Outcome State Fault Refusal) : Option (Word × Word × Word) :=
  (after o).map fun s => (windowRead s 0x18, windowRead s 0x1C, windowRead s 0x20)

theorem running_mul_inv : (running Params.default [5, 7]).Inv := by constructor <;> decide
theorem running_shift_inv : (running shiftParams [5, 7]).Inv := by constructor <;> decide

/-! ### Decoding: words written bit by bit from 30_encoding.md R70 and R72 -/

theorem test_decode_init : decode 0b00000000000000000000000_1_00000001#32 = .ok (.init true) := by rfl
theorem test_decode_init_disabled : decode 0b00000000000000000000000_0_00000001#32 = .ok (.init false) := by rfl
theorem test_decode_config : decode 0b00000000000000000000000_0_00000010#32 = .ok .config := by rfl
theorem test_decode_apply : decode 0b00000000000000000000000_0_00000011#32 = .ok .apply := by rfl
theorem test_decode_restart : decode 0b00000000000000000000000_0_00000100#32 = .ok .restart := by rfl
theorem test_decode_seten : decode 0b00000000000000000000000_1_00000101#32 = .ok (.seten true) := by rfl
theorem test_decode_seten_disable : decode 0b00000000000000000000000_0_00000101#32 = .ok (.seten false) := by rfl
theorem test_decode_rdadc : decode 0b00000000000000000000000_0_00000110#32 = .ok .rdadc := by rfl
theorem test_decode_rdwidth : decode 0b00000000000000000000000_0_00000111#32 = .ok .rdwidth := by rfl
/-- 30_encoding.md R73: bit 8 with APPLY, the opcodes 0x00 and 0x08, the lowest and the highest reserved bit. -/
theorem test_decode_illegal :
    decode 0x00000103 = .error .enableBitSet ∧ decode 0x00000000 = .error .unknownOpcode ∧
    decode 0x00000008 = .error .unknownOpcode ∧ decode 0x00000201 = .error .reservedBitSet ∧
    decode 0x80000001 = .error .reservedBitSet := ⟨rfl, rfl, rfl, rfl, rfl⟩

/-! ### Well-formedness: for each check an ill-formed line that it refuses (30_encoding.md R75) -/

theorem test_wellFormed_u32 : (AsmLine.config (2 ^ 32) 50).wellFormed = false ∧
    (AsmLine.apply 0 (-1)).wellFormed = false ∧ (AsmLine.config (2 ^ 32 - 1) 0).wellFormed = true := by decide
theorem test_wellFormed_s32 : (AsmLine.apply (2 ^ 31) 50).wellFormed = false ∧
    (AsmLine.apply (-2 ^ 31 - 1) 50).wellFormed = false ∧ (AsmLine.apply (-2 ^ 31) 50).wellFormed = true := by decide
theorem test_wellFormed_bit : (AsmLine.seten 2).wellFormed = false ∧
    (AsmLine.init 50 50 1013 12 4 (some 2)).wellFormed = false ∧ (AsmLine.seten 1).wellFormed = true := by decide
theorem test_wellFormed_init : (AsmLine.init 50 50 1013 12 (2 ^ 32) none).wellFormed = false := by decide

/-! ### The commands, one step each -/

/-- 95_test_vectors.md 2.3, MUL: `INIT 50, 50, 65536, 12, 4, 1` is BAD_ARG; with 65535 STATE is 0x040F. -/
theorem test_init_mul :
    visible (exec (.init true) (withInit 50 50 65536 12 4 State.reset)) = some (0, 0x040, 0x0004) ∧
    visible (exec (.init true) (withInit 50 50 65535 12 4 State.reset)) = some (0, 0x001, 0x040F) := by decide

/-- 95_test_vectors.md 2.3, SHIFT: `INIT 60, 50, 0, 12, 1, 1` leaves CFG_VALID 0; `INIT 100, 50, 0, 12, 2, 1` sets it. -/
theorem test_init_shift :
    visible (exec (.init true) (withInit 60 50 0 12 1 (State.resetWith shiftParams))) = some (0, 0x001, 0x0117) ∧
    visible (exec (.init true) (withInit 100 50 0 12 2 (State.resetWith shiftParams))) = some (0, 0x001, 0x021F) ∧
    (after (exec (.init true) (withInit 100 50 0 12 2 (State.resetWith shiftParams)))).map (·.shift) = some 5 := by
  decide

/-- 95_test_vectors.md 2.4: `CONFIG 1000, 100` derives COEF 15305; `CONFIG 3184, 50` is rejected and keeps 1013. -/
theorem test_config_mul :
    ((after (exec .config (withArgs 1000 100 (running Params.default [0])))).map fun s => (s.coef, s.fc, s.t, s.stat)) =
      some (15305, 1000, 100, 0x001) ∧
    ((after (exec .config (withArgs 3184 50 (running Params.default [0])))).map fun s => (s.coef, s.fc, s.t, s.stat)) =
      some (1013, 50, 50, 0x020) := by decide

/-- 95_test_vectors.md P2 rows 6 and 7: `CONFIG 10, 50` gives SHIFT 8, `CONFIG 10, 49` is rejected. -/
theorem test_config_shift :
    ((after (exec .config (withArgs 10 50 (running shiftParams [0])))).map fun s => (s.shift, s.stat)) =
      some (8, 0x001) ∧
    ((after (exec .config (withArgs 10 49 (running shiftParams [0])))).map fun s => (s.shift, s.stat)) =
      some (6, 0x020) := by decide

/-- 95_test_vectors.md P1 row 7: `APPLY 50, 50` from the poles of row 6. -/
theorem test_apply_cascade :
    ((after (exec .apply (withArgs 50 50 (running Params.default [248577, 8419, 224, 4])))).map fun s =>
      (s.poles.take 4, s.res, s.stat, s.restart)) = some ([295385, 12855, 419, 10], 0x0000000A, 0x001, false) := by
  decide

/-- 95_test_vectors.md P4 row 5: under both subtraction rules. -/
theorem test_apply_overflow :
    ((after (exec .apply (withArgs (-10) 50 (running Params.default [3276800, 3276800])))).map fun s =>
      (s.poles.take 2, s.res.toInt, s.stat, s.restart)) = some ([-655360, -655360], -655360, 0x030, true) ∧
    ((after (exec .apply (withArgs (-10) 50 (running twosParams [6453083, 6551275])))).map fun s =>
      (s.poles.take 2, s.res.toInt, s.stat)) = some ([6343207, 6548059], 6548059, 0x001) := by decide

/-- 95_test_vectors.md P2 row 5: SHIFT; `APPLY 100, 25` reconfigures to shift 7 and runs the cascade with it. -/
theorem test_stage_shift :
    stage shiftParams 0 7 6553600 204800 = .ok 254400 ∧ stage shiftParams 0 7 254400 6400 = .ok 8337 :=
  ⟨rfl, rfl⟩

/-- 95_test_vectors.md 2.5: the half that rounds up, a negative difference, and the extreme products. -/
theorem test_lag_mul :
    (lagValue Params.default 1 0 98304).toOption = some 2 ∧
    (lagValue Params.default 1013 0 (-33)).toOption = some (-1) ∧
    (lagValue Params.default 65535 0 2147483647).toOption = some 2147450879 ∧
    (lagValue Params.default 65535 0 (-2147483648)).toOption = some (-2147450880) := by decide

/-- 95_test_vectors.md 2.6. -/
theorem test_lag_shift : lagValue shiftParams 0 5 (-33) = .ok (-2) ∧
    lagValue shiftParams 0 12 (-2147483648) = .ok (-524288) := ⟨rfl, rfl⟩

/-- The table of scaled inputs before 95_test_vectors.md section 3: an exact value and the two wraps. -/
theorem test_scaler :
    scaleInput Params.default (-1) = -65536 ∧ scaleInput Params.default 32768 = -2147483648 ∧
    scaleInput Params.default (-32769) = 2147418112 := by decide

/-- 95_test_vectors.md P3 row 2 and 42_control.md R190: before INIT, and in Enabled-Steady. -/
theorem test_restart :
    visible (exec .restart State.reset) = some (0, 0x050, 0x0004) ∧
    visible (exec .restart (running Params.default [5])) = some (0, 0x001, 0x010F) := by decide

/-- 42_control.md R191: disabling keeps RESTART, enabling a disabled core sets it, enabling an enabled one does not. -/
theorem test_seten :
    visible (exec (.seten false) (running Params.default [5])) = some (0, 0x001, 0x0109) ∧
    visible (exec (.seten true) { running Params.default [5] with en := false }) = some (0, 0x001, 0x010F) ∧
    visible (exec (.seten true) (running Params.default [5])) = some (0, 0x001, 0x010B) := by decide

/-- 42_control.md R192: its example, and NOT_INIT with RES unchanged. -/
theorem test_rdadc :
    visible (exec .rdadc (running Params.default [5])) = some (12, 0x001, 0x010B) ∧
    visible (exec .rdadc { State.reset with res := 7 }) = some (7, 0x050, 0x0004) := by decide

/-- 42_control.md R193: before INIT. -/
theorem test_rdwidth : visible (exec .rdwidth State.reset) = some (32, 0x001, 0x0004) := by decide

/-- 95_test_vectors.md P3 row 12: the word 0x00000103 before and after INIT. -/
theorem test_illegal :
    visible (runCommand 0x00000103 (running Params.default [5])) = some (0, 0x060, 0x010B) ∧
    visible (runCommand 0x00000103 State.reset) = some (0, 0x060, 0x0004) := by decide

/-! ### The window, the step, the assembler -/

/-- 20_memory.md R52: a byte access of CMD and a misaligned word are bus errors. -/
theorem test_bus_error :
    faultOf (step (pending [.access 0 (.write 0 1 3)] State.reset)) = some .busError ∧
    faultOf (step (pending [.access 0 (.read 0x1A 4)] State.reset)) = some .busError := by decide

/-- The word of RDWIDTH runs as the first command after reset. -/
theorem test_fetch : visible (step (State.reset.withFetchWord 32 0x00000007)) = some (32, 0x001, 0x0004) := by decide

/-- 00_scope.md R9. -/
theorem test_params_legal : Params.default.legal = true ∧ shiftParams.legal = true ∧ tinyParams.legal = true ∧
    ({ Params.default with w := 31 } : Params).legal = false := by decide

/-- 30_encoding.md R75 and R77; 95_test_vectors.md P4 row 5, in the assembler's text. -/
theorem test_assemble_text :
    assemble basedParams "APPLY -10, 0x32 ; a tick\n\nENABLE".toList =
      .ok [.write 0x104 4 0xFFFFFFF6, .write 0x108 4 0x00000032, .write 0x100 4 0x00000003,
        .write 0x100 4 0x00000105] := by rfl

/-- 95_test_vectors.md P4 row 5 as printed there, with U+2212 (log 14); the plus sign; and no sign on its own. -/
theorem test_assemble_sign :
    assemble Params.default "APPLY \u221210, 50".toList =
      .ok [.write 0x04 4 0xFFFFFFF6, .write 0x08 4 0x00000032, .write 0x00 4 0x00000003] ∧
    assemble Params.default "APPLY +10, 50".toList =
      .ok [.write 0x04 4 0x0000000A, .write 0x08 4 0x00000032, .write 0x00 4 0x00000003] ∧
    assemble Params.default "APPLY \u2212, 50".toList = .error .badNumber := ⟨rfl, rfl, rfl⟩

/-- 30_encoding.md R75: what the assembler refuses. -/
theorem test_assemble_refused :
    assemble Params.default "SETEN 2".toList = .error .operandDoesNotFit ∧
    assemble Params.default "CONFIG 5".toList = .error .operandCount ∧
    assemble Params.default "FILTER".toList = .error .unknownMnemonic ∧
    assemble Params.default "CONFIG 5, x".toList = .error .badNumber := ⟨rfl, rfl, rfl, rfl⟩

/-! ### Hypotheses of the obligations: reset, parameters, the host's program -/

theorem test_hyps_ResetGivesTheSpecifiedValues : Params.default.variant = .mul ∧ shiftParams.variant = .shift := by
  decide

theorem test_hyps_ResetInputForgetsEverything :
    ∃ (s u : State) (x y : Option HostOp) (rest : List HostEvent),
      s.hw.legal = true ∧ oneHost rest = true ∧ s.bus = .reset x :: rest ∧ u.hw = s.hw ∧ u.bus = .reset y :: rest ∧
      s ≠ u ∧ rest ≠ [] :=
  ⟨pending [.reset none, .access 3 (.read 0 4)] (running Params.default [5]),
    pending [.reset (some (.write 0 4 3)), .access 3 (.read 0 4)] State.reset, none, some (.write 0 4 3),
    [.access 3 (.read 0 4)], by decide⟩

theorem test_hyps_ParametersBreakingTheirConstraintsAreRefused :
    ({ Params.default with w := 31 } : Params).w ≠ 2 * ({ Params.default with w := 31 } : Params).f ∧
    ({ Params.default with npolesMax := 0 } : Params).npolesMax < 1 ∧
    ({ Params.default with lagK := 0 } : Params).lagK = 0 ∧
    (∃ e ∈ ({ Params.default with shiftTable := [(1, 32)] } : Params).shiftTable, 32 ≤ e.2) ∧
    (∃ a ∈ ({ Params.default with shiftTable := [(2, 5), (1, 5)] } : Params).shiftTable,
      ∃ b ∈ ({ Params.default with shiftTable := [(2, 5), (1, 5)] } : Params).shiftTable, a.1 < b.1 ∧ a.2 ≤ b.2) := by
  decide

theorem test_hyps_TwoHostAgentsAreRefused :
    ∃ (s : State) (a b : Nat) (x y : HostOp),
      s.hw.legal = true ∧ .access a x ∈ s.bus ∧ .access b y ∈ s.bus ∧ a ≠ b :=
  ⟨pending [.access 0 (.read 0 4), .reset none, .access 1 (.read 0 4)] State.reset, 0, 1, .read 0 4, .read 0 4,
    by decide⟩

theorem test_hyps_IdleCoreHoldsItsState : State.reset.hw.legal = true ∧ State.reset.bus = [] := by decide

/-! ### Hypotheses: the register window -/

theorem test_hyps_SubWordOrMisalignedAccessIsABusError :
    (∃ (s : State) (off n : Nat), s.hw.legal = true ∧ oneHost s.bus = true ∧ off < 64 ∧ (n ≠ 4 ∨ off % 4 ≠ 0) ∧
      s.bus = [.access 0 (.read (s.hw.base + off) n)]) ∧
    (∃ (s : State) (off n : Nat) (v : Word), s.hw.legal = true ∧ oneHost s.bus = true ∧ off < 64 ∧
      (n ≠ 4 ∨ off % 4 ≠ 0) ∧ s.bus = [.access 0 (.write (s.hw.base + off) n v)]) :=
  ⟨⟨pending [.access 0 (.read (0x100 + 63) 4)] (State.resetWith basedParams), 63, 4, by decide⟩,
    ⟨pending [.access 0 (.write 0x100 2 3)] (State.resetWith basedParams), 0, 2, 3, by decide⟩⟩

theorem test_hyps_AccessOutsideTheWindowIsRefused :
    (∃ (s : State) (addr n : Nat), s.hw.legal = true ∧ oneHost s.bus = true ∧
      (addr < s.hw.base ∨ s.hw.base + 64 ≤ addr) ∧ s.bus = [.access 0 (.read addr n)]) ∧
    (∃ (s : State) (addr n : Nat) (v : Word), s.hw.legal = true ∧ oneHost s.bus = true ∧
      (addr < s.hw.base ∨ s.hw.base + 64 ≤ addr) ∧ s.bus = [.access 0 (.write addr n v)]) :=
  ⟨⟨pending [.access 0 (.read 0xFF 4)] (State.resetWith basedParams), 0xFF, 4, by decide⟩,
    ⟨pending [.access 0 (.write 0x140 4 3)] (State.resetWith basedParams), 0x140, 4, 3, by decide⟩⟩

/-- A read and a write at the first and last offset of each kind. -/
theorem test_hyps_AccessesFollowTheRegisterMap : ∀ off ∈ [0x00, 0x04, 0x14, 0x18, 0x20, 0x24, 0x3C],
    (State.resetWith basedParams).hw.legal = true ∧ off < 64 ∧ off % 4 = 0 ∧
    oneHost [.access 0 (.read (0x100 + off) 4)] = true ∧ oneHost [.access 0 (.write (0x100 + off) 4 9)] = true ∧
    (off = 0 ∨ off ≠ 0) := by decide

theorem test_hyps_StepRunsTheDecodedCommand :
    ∃ (s : State) (v : Word) (i : Instr), s.hw.legal = true ∧ oneHost s.bus = true ∧
      s.bus = [.access 0 (.write s.hw.base 4 v)] ∧ decode v = .ok i :=
  ⟨pending [.access 0 (.write 0x100 4 0x101)] (State.resetWith basedParams), 0x101, .init true,
    by decide, by decide, by decide, rfl⟩

theorem test_hyps_FetchedWordRunsNext :
    ∃ s : State, s.hw.legal = true ∧ oneHost s.bus = true ∧ decodeTableWord 32 0x105 = some (.seten true) :=
  ⟨pending [.access 7 (.read 0x18 4)] State.reset, by decide⟩

theorem test_hyps_StateRegisterShowsTheFlags :
    ∃ s : State, s.Inv ∧ oneHost s.bus = true ∧ s.bus = [.access 0 (.read (s.hw.base + 0x20) 4)] :=
  ⟨pending [.access 0 (.read 0x20 4)] (running shiftParams [5, 7]), by constructor <;> decide, by decide⟩

theorem test_hyps_ByteLanesMakeUpTheRegister : (3 < 4 ∧ 7 < 8) ∧ byteLane 0x12345678 0 = 0x78 ∧
    byteLane 0x12345678 3 = 0x12 := by decide

theorem test_hyps_IllegalWordsOnlyReport :
    (∃ r, decode 0x00000000 = .error r) ∧ (∃ r, decode 0x00000008 = .error r) ∧ (∃ r, decode 0x000000FF = .error r) ∧
    (∃ r, decode 0x00000103 = .error r) ∧ (∃ r, decode 0x00000201 = .error r) ∧ (∃ r, decode 0x80000001 = .error r) ∧
    (∃ s : State, s.hw.legal = true ∧ oneHost s.bus = true ∧ s.bus = [.access 0 (.write s.hw.base 4 0x00000103)]) :=
  ⟨⟨_, rfl⟩, ⟨_, rfl⟩, ⟨_, rfl⟩, ⟨_, rfl⟩, ⟨_, rfl⟩, ⟨_, rfl⟩,
    pending [.access 0 (.write 0 4 0x00000103)] State.reset, by decide⟩

/-! ### Hypotheses: INIT and CONFIG -/

/-- The five rejections one below or above their limit, and the largest accepted operands. -/
theorem test_hyps_InitConstructsTheFilter :
    (withInit 0 50 0 0 1 State.reset).arg0.toNat = 0 ∧ (withInit 50 0 0 0 1 State.reset).arg1.toNat = 0 ∧
    2 ^ State.reset.hw.f ≤ (withInit 50 50 65536 0 1 State.reset).arg2.toNat ∧
    (withInit 50 50 0 0 0 State.reset).arg4.toNat < 1 ∧
    State.reset.hw.npolesMax < (withInit 50 50 0 0 9 State.reset).arg4.toNat ∧
    (∀ p ∈ [Params.default, shiftParams], ∀ x ∈ [(100, 50), (1, 50), (60, 50), (100, 49)],
      (withInit x.1 x.2 65535 0 8 (State.resetWith p)).arg0.toNat ≠ 0 ∧
      (withInit x.1 x.2 65535 0 8 (State.resetWith p)).arg1.toNat ≠ 0 ∧
      (withInit x.1 x.2 65535 0 8 (State.resetWith p)).arg2.toNat < 2 ^ p.f ∧
      1 ≤ (withInit x.1 x.2 65535 0 8 (State.resetWith p)).arg4.toNat ∧
      (withInit x.1 x.2 65535 0 8 (State.resetWith p)).arg4.toNat ≤ p.npolesMax) ∧
    shiftParams.refPeriod = 50 ∧ shiftParams.shiftFor 100 = some 5 ∧ shiftParams.shiftFor 1 = some 12 ∧
    60 ∉ shiftParams.shiftFreqs ∧ shiftParams.refPeriod ≠ 49 := by decide

theorem test_hyps_ConfigureFollowsItsRules :
    2 ^ Params.default.w ≤ Params.default.lagK * (3184#32).toNat * (50#32).toNat ∧
    Params.default.lagK * (3183#32).toNat * (50#32).toNat < 2 ^ Params.default.w ∧
    (49#32).toNat ≠ shiftParams.refPeriod ∧ (60#32).toNat ∉ shiftParams.shiftFreqs ∧
    shiftParams.legal = true ∧ (50#32).toNat = shiftParams.refPeriod ∧ ((1#32).toNat, 12) ∈ shiftParams.shiftTable ∧
    ((100#32).toNat, 5) ∈ shiftParams.shiftTable := by decide

theorem test_hyps_ConfigRunsConfigure :
    State.reset.inited = false ∧ (running Params.default [5]).inited = true ∧
    configure 3184 50 (running Params.default [5]) = none ∧
    (∃ u, configure 3183 50 (running Params.default [5]) = some u) := by
  refine ⟨by decide, by decide, by decide, _, rfl⟩

theorem test_hyps_DerivedCoefficientIsRoundedAndBounded :
    ∀ x ∈ [(Params.default, 1583, 50), (Params.default, 3183, 50), ({ tinyParams with lagK := 1 }, 8, 1)],
      x.1.legal = true ∧ 2 ≤ x.1.f ∧ x.1.coefBias = 2 ^ (x.1.w + x.1.f - 1) ∧ x.1.variant = .mul ∧
      (BitVec.ofNat 32 x.2.1).toNat ≠ 0 ∧ (BitVec.ofNat 32 x.2.2).toNat ≠ 0 ∧
      x.1.lagK * (BitVec.ofNat 32 x.2.1).toNat * (BitVec.ofNat 32 x.2.2).toNat < 2 ^ x.1.w := by decide

theorem test_hyps_DerivedCoefficientGrowsBelowHalfScale :
    Params.default.legal = true ∧ 50 * 50 ≤ 1591 * 50 ∧ Params.default.lagK * 1591 * 50 ≤ 2 ^ (Params.default.w - 1) ∧
    (∃ c, deriveCoef Params.default 50 50 = some c) ∧ (∃ c, deriveCoef Params.default 1591 50 = some c) :=
  ⟨by decide, by decide, by decide, ⟨_, rfl⟩, ⟨_, rfl⟩⟩

theorem test_hyps_DerivedCoefficientCornerCases : 1583 ≤ 1583 ∧ 1583 ≤ 1600 ∧ 1600 ≤ 1600 := by decide

/-- A tick that reconfigures (from 50 Hz to 100 Hz), and one whose request (0 Hz) is rejected. -/
theorem test_hyps_ApplyReconfiguresAsConfigDoes : ∀ fc ∈ [(100 : Int), 0], ∃ s t u : State,
    s = withArgs 7 fc (running Params.default [5]) ∧
    s.inited = true ∧ s.en = true ∧ (s.arg1 ≠ s.fc ∨ s.cfgValid = false) ∧ exec .apply s = .next t ∧
    exec .config { s with arg0 := s.arg1, arg1 := s.t } = .next u := by
  intro fc hfc
  simp only [List.mem_cons, List.not_mem_nil, or_false] at hfc
  rcases hfc with rfl | rfl
  · exact ⟨_, _, _, rfl, by decide, by decide, by decide, rfl, rfl⟩
  · exact ⟨_, _, _, rfl, by decide, by decide, by decide, rfl, rfl⟩

/-! ### Hypotheses: APPLY -/

theorem test_hyps_ApplyReportsTheFirstFailure :
    State.reset.inited = false ∧
    (∃ s : State, s.inited = true ∧ s.en = false) ∧
    (∃ s : State, s.inited = true ∧ s.en = true ∧ s.arg1 ≠ s.fc ∧ configure s.arg1 s.t s = none) ∧
    (∃ s : State, s.inited = true ∧ s.en = true ∧ s.arg1 = s.fc ∧ s.cfgValid = false ∧
      configure s.arg1 s.t s = none) :=
  ⟨by decide, ⟨{ running Params.default [5] with en := false }, by decide⟩,
    ⟨withArgs 7 0 (running Params.default [5]), by decide⟩,
    ⟨withArgs 7 60 { running shiftParams [5] with fc := 60, cfgValid := false }, by decide⟩⟩

/-- Seed ticks without and with a reconfiguration first. -/
theorem test_hyps_SeedTickSeedsEveryActivePole :
    (∃ s s3 : State, s.inited = true ∧ s.en = true ∧
      ((s.arg1 ≠ s.fc ∨ s.cfgValid = false) → configure s.arg1 s.t s = some s3) ∧
      (s.arg1 = s.fc → s.cfgValid = true → s3 = s) ∧ s3.restart = true ∧ s.arg1 = s.fc) ∧
    (∃ s s3 : State, s.inited = true ∧ s.en = true ∧
      ((s.arg1 ≠ s.fc ∨ s.cfgValid = false) → configure s.arg1 s.t s = some s3) ∧
      (s.arg1 = s.fc → s.cfgValid = true → s3 = s) ∧ s3.restart = true ∧ s.arg1 ≠ s.fc ∧ s.restart = false) := by
  refine ⟨⟨withArgs 7 50 { running Params.default [5, 6] with restart := true }, _, ?_, ?_, ?_, fun _ _ => rfl, ?_⟩,
    ⟨withArgs 7 100 (running restartParams [5, 6]), _, ?_, ?_, fun _ => rfl, ?_, ?_⟩⟩
  all_goals decide

/-- One complete cascade of two stages (95_test_vectors.md P4 row 3 under `TWOS_COMPLEMENT_SUB`). -/
theorem test_hyps_CascadeFollowsTheStageLoop :
    ∃ (s s3 : State) (c : Nat → Int), s.inited = true ∧ s.en = true ∧
      ((s.arg1 ≠ s.fc ∨ s.cfgValid = false) → configure s.arg1 s.t s = some s3) ∧
      (s.arg1 = s.fc → s.cfgValid = true → s3 = s) ∧ s3.restart = false ∧
      c 0 = wrap s.hw.w (s.arg0.toInt * 2 ^ s.hw.f) ∧ StagesPass s3 c s.n ∧ s.n = 2 := by
  refine ⟨withArgs 50 50 (running twosParams [6553600, 6553600]), _,
    fun i => if i = 0 then 3276800 else if i = 1 then 6502950 else 6552817,
    by decide, by decide, by decide, fun _ _ => rfl, by decide, by decide, ?_, by decide⟩
  intro i hi
  match i, hi with
  | 0, _ => exact ⟨6553600, rfl, rfl, rfl, rfl, rfl⟩
  | 1, _ => exact ⟨6553600, rfl, rfl, rfl, rfl, rfl⟩

/-- Overflow in the last stage (95_test_vectors.md P4 row 5), and in stage 0 (row 3). -/
theorem test_hyps_OverflowResetsEveryActivePole :
    (∃ (s s3 : State) (c : Nat → Int) (pole : Int), s.inited = true ∧ s.en = true ∧
      ((s.arg1 ≠ s.fc ∨ s.cfgValid = false) → configure s.arg1 s.t s = some s3) ∧
      (s.arg1 = s.fc → s.cfgValid = true → s3 = s) ∧ s3.restart = false ∧
      c 0 = wrap s.hw.w (s.arg0.toInt * 2 ^ s.hw.f) ∧ 1 < s.n ∧ StagesPass s3 c 1 ∧ s.poles[1]? = some pole ∧
      StageFails s3.hw s3.coef s3.shift (c 1) pole) ∧
    (∃ (s s3 : State) (c : Nat → Int) (pole : Int), s.inited = true ∧ s.en = true ∧
      ((s.arg1 ≠ s.fc ∨ s.cfgValid = false) → configure s.arg1 s.t s = some s3) ∧
      (s.arg1 = s.fc → s.cfgValid = true → s3 = s) ∧ s3.restart = false ∧
      c 0 = wrap s.hw.w (s.arg0.toInt * 2 ^ s.hw.f) ∧ 0 < s.n ∧ StagesPass s3 c 0 ∧ s.poles[0]? = some pole ∧
      StageFails s3.hw s3.coef s3.shift (c 0) pole) := by
  constructor
  · refine ⟨withArgs (-10) 50 (running Params.default [3276800, 3276800]), _,
      fun i => if i = 0 then -655360 else 3216020, 3276800,
      by decide, by decide, by decide, fun _ _ => rfl, by decide, by decide, by decide, ?_, rfl, .inl rfl⟩
    intro i hi
    match i, hi with
    | 0, _ => exact ⟨3276800, rfl, rfl, rfl, rfl, rfl⟩
  · exact ⟨withArgs 50 50 (running Params.default [6553600, 6553600]), _, fun _ => 3276800, 6553600,
      by decide, by decide, by decide, fun _ _ => rfl, by decide, by decide, by decide,
      fun i hi => absurd hi (Nat.not_lt_zero i), rfl, .inl rfl⟩

/-- A disabled tick, an overflow, a seed tick. -/
theorem test_hyps_FailedTicksLeaveTheScaledInput :
    (∃ s t : State, exec .apply s = .next t ∧ statOk t.stat = false ∧ statCause t.stat ≠ Cause.overflow.code) ∧
    (∃ s t : State, exec .apply s = .next t ∧ statCause t.stat = Cause.overflow.code ∧ 1 < t.n ∧ 1 < t.poles.length) ∧
    (∃ s t : State, exec .apply s = .next t ∧ statSeed t.stat = true ∧ 1 < t.n ∧ 1 < t.poles.length) :=
  ⟨⟨{ running Params.default [5] with en := false }, _, rfl, by decide, by decide⟩,
    ⟨withArgs 0 50 (running Params.default [5, 6]), _, rfl, by decide, by decide, by decide⟩,
    ⟨withArgs 7 50 { running Params.default [5, 6] with restart := true }, _, rfl, by decide, by decide, by decide⟩⟩

/-! ### Hypotheses: the datapath -/

/-- The largest sum in range and the smallest out of it; the narrowest word. -/
theorem test_hyps_OverflowPredicateIsExactForSums :
    InRange 32 2147483646 ∧ InRange 32 1 ∧ InRange 32 (2147483646 + 1) ∧ InRange 32 2147483647 ∧
    ¬ InRange 32 (2147483647 + 1) ∧ InRange 1 (-1) ∧ InRange 1 0 ∧ ¬ InRange 1 (-1 + -1) := by decide

theorem test_hyps_SubtractionCheckOfBothRules :
    Params.default.subOvfRule = .sameSign ∧ twosParams.subOvfRule = .twosComplementSub ∧ 1 ≤ twosParams.w ∧
    InRange 32 2147483647 ∧ InRange 32 (-1) ∧ ¬ InRange 32 (2147483647 - -1) := by decide

theorem test_hyps_ScalerWrapsModuloTheWordSize :
    Params.default.legal = true ∧ InRange (Params.default.w - Params.default.f) 32767 ∧
    InRange (Params.default.w - Params.default.f) (-32768) ∧ ¬ InRange (Params.default.w - Params.default.f) 32768 := by
  decide

theorem test_hyps_MulLagHasTheClosedForm : ∀ p ∈ [Params.default, tinyParams], ∀ coef ∈ [0, 2 ^ p.f - 1],
    ∀ d ∈ [0, -1, 2 ^ (p.w - 1) - 1, -2 ^ (p.w - 1)],
    p.legal = true ∧ p.variant = .mul ∧ p.cascadeBias = 2 ^ (p.w - p.f - 1) ∧ coef < 2 ^ p.f ∧ InRange p.w d := by
  decide

theorem test_hyps_MulLagNeverOverflows : ∀ p ∈ [Params.default, tinyParams], ∀ coef ∈ [0, 2 ^ p.f - 1],
    ∀ d ∈ [2 ^ (p.w - 1) - 1, -2 ^ (p.w - 1)],
    2 ≤ p.f ∧ p.legal = true ∧ p.cascadeBias = 2 ^ (p.w - p.f - 1) ∧ coef < 2 ^ p.f ∧ InRange p.w d := by decide

/-- A rising input between extremes of one sign, and one across zero, in both variants. -/
theorem test_hyps_NewPoleLiesBetweenPoleAndInput : ∀ p ∈ [Params.default, shiftParams, twosParams],
    ∀ x ∈ [((2147483647 : Int), (0 : Int)), (-1, 2147483647)],
    p.legal = true ∧ 65535 < 2 ^ p.f ∧ InRange p.w x.1 ∧ InRange p.w x.2 ∧ InRange p.w (x.1 - x.2) ∧
    subCheck p x.1 x.2 (x.1 - x.2) = false := by decide

theorem test_hyps_SameSignRuleReportsFallingInputs :
    (∀ x ∈ [((0 : Int), (0 : Int)), (0, 1)], InRange 32 x.1 ∧ InRange 32 x.2 ∧ 0 ≤ x.1 ∧ 0 ≤ x.2) ∧
    (∀ x ∈ [((-1 : Int), (-1 : Int)), (-2, -1)], InRange 32 x.1 ∧ InRange 32 x.2 ∧ x.1 < 0 ∧ x.2 < 0) ∧
    (∀ x ∈ [((2147483647 : Int), (-1 : Int)), (-1, 0)], InRange 32 x.1 ∧ InRange 32 x.2 ∧ (x.1 < 0 ↔ 0 ≤ x.2)) ∧
    (∀ x ∈ [((0 : Int), (1 : Int)), (-1, -1)], InRange 32 x.1 ∧ InRange 32 x.2 ∧ (0 ≤ x.1 ↔ 0 ≤ x.2)) ∧
    ¬ InRange 32 (2147483647 - -1) ∧ InRange 32 (-1 - 0) ∧
    Params.default.subOvfRule = .sameSign ∧ twosParams.subOvfRule = .twosComplementSub := by decide

/-- Two poles equal to the scaled value of `raw`, and a tick with that raw reading requesting `fc`. -/
def constantTick (p : Params) (raw fc : Int) : State := withArgs raw fc (running p [raw * 65536, raw * 65536])

/-- The state step 3 of APPLY leaves, where it does not fail. -/
def afterStep3 (s : State) : State := (reconfigure s.arg1 s).getD s

/-- A negative constant input under `SAME_SIGN`, the input 0 under it, and a negative one under `TWOS_COMPLEMENT_SUB`; and
a tick that reconfigures before its cascade. -/
theorem test_hyps_ConstantInputIsHeldOrAlternates :
    ∀ x ∈ [(constantTick Params.default (-1) 50, true), (constantTick Params.default 0 50, false),
        (constantTick twosParams (-1) 50, false), (constantTick Params.default (-1) 100, true)],
      x.1.Inv ∧ x.1.inited = true ∧ x.1.en = true ∧
      ((x.1.arg1 ≠ x.1.fc ∨ x.1.cfgValid = false) → configure x.1.arg1 x.1.t x.1 = some (afterStep3 x.1)) ∧
      (x.1.arg1 = x.1.fc → x.1.cfgValid = true → afterStep3 x.1 = x.1) ∧ (afterStep3 x.1).restart = false ∧
      (∀ k < x.1.n, x.1.poles[k]? = some (scaleInput x.1.hw x.1.arg0.toInt)) ∧
      ((x.1.hw.subOvfRule = .sameSign ∧ scaleInput x.1.hw x.1.arg0.toInt < 0) ↔ x.2 = true) := by
  intro x hx
  simp only [List.mem_cons, List.not_mem_nil, or_false] at hx
  rcases hx with rfl | rfl | rfl | rfl
  all_goals exact ⟨by constructor <;> decide, by decide⟩

/-! ### Hypotheses: the control family -/

theorem test_hyps_ControlCommands :
    State.reset.inited = false ∧ (running Params.default [5]).inited = true ∧
    (running Params.default [5]).en = true ∧ ({ running Params.default [5] with en := false } : State).en = false := by
  decide

/-! ### Hypotheses: the whole machine -/

theorem test_hyps_EveryCommandWritesALegalStatus :
    ∃ s t : State, exec .apply s = .next t ∧ t.stat.getLsbD 8 = true ∧ t.stat.extractLsb' 4 4 = 0 :=
  ⟨withArgs 7 50 { running Params.default [5] with restart := true }, _, rfl, by decide, by decide⟩

/-- Each command gives a next state; the last ones meet the premises `i ≠ …` of every clause. -/
theorem test_hyps_CommandsWriteOnlyTheirRegisters :
    ∀ i ∈ [Instr.init true, .config, .apply, .restart, .seten false, .rdadc, .rdwidth],
      (after (exec i (running Params.default [5]))).isSome = true := by decide

/-- A seed tick clears the flag; INIT, RESTART, SETEN, an overflow and a configuration set it. -/
theorem test_hyps_RestartFlagChangesOnlyAsListed :
    (∃ s t : State, exec .apply s = .next t ∧ s.restart = true ∧ t.restart = false) ∧
    (∀ x ∈ [(Instr.init true, withInit 50 50 0 0 1 (running Params.default [5])),
        (.restart, running Params.default [5]), (.seten true, { running Params.default [5] with en := false }),
        (.apply, withArgs 0 50 (running Params.default [5])), (.config, withArgs 50 50 (running restartParams [5]))],
      x.2.restart = false ∧ (after (exec x.1 x.2)).map (·.restart) = some true) :=
  ⟨⟨withArgs 7 50 { running Params.default [5] with restart := true }, _, rfl, by decide⟩, by decide⟩

/-- The reset input clears both flags; an INIT of the SHIFT variant with an unsupported pair clears `CFG_VALID`. -/
theorem test_hyps_OnlyResetUninitialises :
    (∃ s t : State, step s = .next t ∧ s.inited = true ∧ t.inited = false ∧ s.cfgValid = true ∧ t.cfgValid = false) ∧
    (∃ s t : State, step s = .next t ∧ s.cfgValid = true ∧ t.cfgValid = false ∧ t.inited = true) :=
  ⟨⟨pending [.reset none] (running Params.default [5]), _, rfl, by decide⟩,
    ⟨pending [.access 0 (.write 0 4 0x101)] (withInit 60 50 0 12 1 (running shiftParams [5])), _, rfl, by decide⟩⟩

/-- A command and a state for each row: INIT accepted and rejected, uninitialised, the three states. -/
theorem test_hyps_FilterStateMachineFollowsItsTable :
    initRejects (withInit 50 50 0 0 8 State.reset) = false ∧ initRejects (withInit 50 50 0 0 9 State.reset) = true ∧
    filterState State.reset = none ∧
    filterState { running Params.default [5] with en := false } = some .disabled ∧
    filterState { running Params.default [5] with restart := true } = some .enabledRestarting ∧
    filterState (running Params.default [5]) = some .enabledSteady ∧
    (∀ i ∈ [Instr.config, .apply, .restart, .seten true, .seten false, .rdadc, .rdwidth],
      (after (exec i (running Params.default [5]))).isSome = true ∧
      (after (exec i { running Params.default [5] with en := false })).isSome = true ∧
      (after (exec i { running Params.default [5] with restart := true })).isSome = true) := by decide

theorem test_hyps_PolesBeyondTheCountAreUntouched :
    ∃ s t : State, exec .apply s = .next t ∧ s.n ≤ s.poles.length ∧ s.n < s.poles.length ∧ t.poles ≠ s.poles :=
  ⟨withArgs 7 50 (running Params.default [5, 7]), _, rfl, by decide⟩

/-- Every command completes in a state whose operands a command reads or ignores. -/
theorem test_hyps_UnlistedOperandsAreIgnored :
    ∀ i ∈ [Instr.config, .apply, .restart, .seten true, .rdadc, .rdwidth],
      (after (exec i (withInit 7 50 1 2 3 (running Params.default [5])))).isSome = true ∧
      (i = .config ∨ i = .apply ∨ ((∀ x ∈ [true, false], i ≠ .init x) ∧ i ≠ .config ∧ i ≠ .apply)) := by decide

theorem test_hyps_RegisterOfTheOtherVariantIsIgnored :
    ∀ i ∈ [Instr.config, .apply], ∀ p ∈ [Params.default, shiftParams],
      (after (exec i (withArgs 50 50 (running p [5])))).isSome = true ∧
      (p.variant = .mul ∨ p.variant = .shift) ∧ ∀ e ∈ [true, false], i ≠ .init e := by decide

theorem test_hyps_AdmittedProgramsNeverStop :
    SafeToRun (pending [.access 0 (.write 0x100 4 0x103), .reset none, .access 0 (.read 0x13C 4)]
      (State.resetWith basedParams)) := by
  refine ⟨by decide, by decide, by decide⟩

/-! ### Hypotheses: the invariant, the unspecified registers, the assembler -/

theorem test_hyps_ResetMeetsTheInvariant : Params.default.legal = true ∧ shiftParams.legal = true ∧
    tinyParams.legal = true := by decide

/-- A step of the running core that overflows. -/
theorem test_hyps_StepKeepsTheInvariant : ∃ s t : State, s.Inv ∧ step s = .next t ∧ t ≠ s :=
  ⟨pending [.access 0 (.write 0 4 3)] (withArgs 0 50 (running Params.default [5, 7])), _, by constructor <;> decide,
    rfl, by decide⟩

/-- Two cores that differ in an unspecified register and a pole beyond the count. -/
theorem test_hyps_ChosenResetValuesAreNeverObserved :
    (∃ a b : State, Agree a b ∧ a ≠ b) ∧ [5, 6, 7, 8, 9, 10, 11, (12 : Int)].length = Params.default.npolesMax := by
  refine ⟨⟨running Params.default [5], { running Params.default [5] with shift := 9, poles := [5, 1, 2, 3, 4, 5, 6, 7] },
    ?_, by decide⟩, by decide⟩
  constructor <;> first | rfl | decide

theorem test_hyps_HostWritesOfALineExecuteItsCommand :
    ∃ (s : State) (ws : List HostOp), s.hw.legal = true ∧ assembleLine s.hw (.apply (-10) 50) = some ws ∧
      s.bus = accesses 4 ws ++ [.access 4 (.read 0x118 4)] ∧ oneHost s.bus = true :=
  ⟨pending (accesses 4 [.write 0x104 4 0xFFFFFFF6, .write 0x108 4 50, .write 0x100 4 3] ++ [.access 4 (.read 0x118 4)])
    (State.resetWith basedParams), _, by decide, rfl, by decide, by decide⟩

end Sys2Proof.Tests
end

section
/-! Build parameters that break 00_scope.md R9 are refused. -/

namespace Sys2Proof

/-- In an ordered table every lower frequency has the larger shift, wherever the two entries stand. -/
theorem shift_lt_of_freq_lt {l : List (Nat × Nat)} (h : tableOrdered l = true) {a b : Nat × Nat} (ha : a ∈ l) (hb : b ∈ l)
    (hab : a.1 < b.1) : b.2 < a.2 := by
  have hp := pairwise_of_tableOrdered h
  refine List.Pairwise.forall_of_forall_of_flip (R := fun x y => x.1 < y.1 → y.2 < x.2) ?diagonal ?forward ?backward
    ha hb hab
  case diagonal => exact fun x _ hx => absurd hx (Nat.lt_irrefl x.1)
  case forward => exact hp.imp fun hxy hyx => absurd hyx (Nat.lt_asymm hxy.1)
  case backward => exact hp.imp fun hxy _ => hxy.2

end Sys2Proof

namespace Sys2Proof.Machine

/-- A core built with parameters a model rejects refuses its step, whatever its host does (00_scope.md R9). -/
theorem step_of_not_legal {s : State} (h : s.hw.legal = false) : step s = .refused .illegalParameters := by
  unfold step performNext
  rw [if_pos h]

/-- Settles O3: legal parameters meet each constraint, the last one because adjacent order of the table is order of all
its pairs. -/
theorem parametersBreakingTheirConstraintsAreRefused : Obligations.ParametersBreakingTheirConstraintsAreRefused := by
  intro s hbroken
  refine step_of_not_legal (Bool.eq_false_iff.2 fun hlegal => ?_)
  obtain ⟨⟨hw, hn, hshift, hordered, hlag⟩, -⟩ := s.hw.legal_iff.1 hlegal
  obtain hw' | hn' | hlag' | ⟨e, he, hle⟩ | ⟨a, ha, b, hb, hfreq, hle⟩ := hbroken
  · exact hw' hw
  · exact Nat.not_lt.2 hn hn'
  · exact hlag.ne' hlag'
  · exact Nat.not_lt.2 hle (hshift e he)
  · exact Nat.not_lt.2 hle (shift_lt_of_freq_lt hordered ha hb hfreq)

end Sys2Proof.Machine
end

section
/-! What one tick can do, and the `STAT` every command leaves (10_state.md R37). -/

namespace Sys2Proof.Machine

/-! ### What one tick can do, in the state before step 1 (41_apply.md R153) -/

/-- A cascade, passed or recovered, reports with `SEED = 0`. -/
theorem cascade_stat (sc : Int) (s : State) : ∃ c, (cascade sc s).stat = statWord c false := by
  obtain ⟨-, -, h⟩ | ⟨_, _, -, h⟩ := cascade_cases sc s <;> rw [h] <;> exact ⟨_, rfl⟩

/-- The five ways APPLY ends, each test read off the registers APPLY found: step 1 writes `RES` only. -/
theorem execApply_next {s t : State} (h : execApply s = .next t) :
    (s.inited = false ∧ t = (s.setRes (resPattern (tickInput s))).report .notInit false) ∨
    (s.inited = true ∧ s.en = false ∧ t = (s.setRes (resPattern (tickInput s))).report .disabled false) ∨
    (s.inited = true ∧ s.en = true ∧ reconfigure s.arg1 s = none ∧
      t = (s.setRes (resPattern (tickInput s))).report .configRejected false) ∨
    (∃ u, s.inited = true ∧ s.en = true ∧ reconfigure s.arg1 s = some u ∧ u.restart = true ∧
      t = seedTick (tickInput s) (u.setRes (resPattern (tickInput s)))) ∨
    (∃ u, s.inited = true ∧ s.en = true ∧ reconfigure s.arg1 s = some u ∧ u.restart = false ∧
      t = cascade (tickInput s) (u.setRes (resPattern (tickInput s)))) := by
  obtain rfl : tickAfterScaling (tickInput s) (s.setRes (resPattern (tickInput s))) = t := Host.Outcome.next.inj h
  have hcases := tickAfterScaling_cases (tickInput s) (s.setRes (resPattern (tickInput s)))
  simp only [State.setRes_inited, State.setRes_en, State.setRes_arg1, reconfigure_setRes, Option.map_eq_none_iff,
    Option.map_eq_some_iff] at hcases
  obtain hn | hd | hr | ⟨_, hi, he, ⟨u, hu, rfl⟩, hres, ht⟩ | ⟨_, hi, he, ⟨u, hu, rfl⟩, hres, ht⟩ := hcases
  · exact .inl hn
  · exact .inr (.inl hd)
  · exact .inr (.inr (.inl hr))
  · exact .inr (.inr (.inr (.inl ⟨u, hi, he, hu, hres, ht⟩)))
  · exact .inr (.inr (.inr (.inr ⟨u, hi, he, hu, hres, ht⟩)))

/-! ### `STAT` after a command (10_state.md R37) -/

/-- An APPLY of this state is a seed tick: the core is initialised and enabled, step 3 passes, and `RESTART` is 1 after it
(41_apply.md R153). -/
def SeedTickDue (s : State) : Prop :=
  s.inited = true ∧ s.en = true ∧ ∃ u, reconfigure s.arg1 s = some u ∧ u.restart = true

/-- Every command but APPLY reports a cause with `SEED = 0`. -/
theorem exec_stat_of_ne_apply {i : Instr} {s t : State} (h : exec i s = .next t) (hi : i ≠ .apply) :
    ∃ c, t.stat = statWord c false := by
  cases i with
  | init e => obtain ⟨-, rfl⟩ | ⟨-, rfl⟩ := execInit_next h <;> exact ⟨_, rfl⟩
  | config => obtain ⟨-, rfl⟩ | ⟨-, -, rfl⟩ | ⟨u, -, -, rfl⟩ := execConfig_next h <;> exact ⟨_, rfl⟩
  | apply => exact absurd rfl hi
  | restart => obtain ⟨-, rfl⟩ | ⟨-, rfl⟩ := execRestart_next h <;> exact ⟨_, rfl⟩
  | seten e =>
    obtain ⟨-, rfl⟩ | ⟨-, -, -, rfl⟩ | ⟨-, -, rfl⟩ | ⟨-, -, -, rfl⟩ := execSeten_next h <;> exact ⟨_, rfl⟩
  | rdadc => obtain ⟨-, rfl⟩ | ⟨-, rfl⟩ := execRdadc_next h <;> exact ⟨_, rfl⟩
  | rdwidth => obtain rfl := Host.Outcome.next.inj h; exact ⟨_, rfl⟩

/-- APPLY reports success with `SEED = 1` when a seed tick is due, and a cause with `SEED = 0` otherwise. -/
theorem execApply_stat {s t : State} (h : execApply s = .next t) :
    (SeedTickDue s ∧ t.stat = statWord .none true) ∨ (¬ SeedTickDue s ∧ ∃ c, t.stat = statWord c false) := by
  unfold SeedTickDue
  obtain ⟨hi, rfl⟩ | ⟨-, he, rfl⟩ | ⟨-, -, hr, rfl⟩ | ⟨u, hi, he, hr, hres, rfl⟩ | ⟨u, -, -, hr, hres, rfl⟩ :=
    execApply_next h
  · exact .inr ⟨by simp [hi], _, rfl⟩
  · exact .inr ⟨by simp [he], _, rfl⟩
  · exact .inr ⟨by simp [hr], _, rfl⟩
  · exact .inl ⟨⟨hi, he, u, hr, hres⟩, rfl⟩
  · exact .inr ⟨by simp [hr, hres], cascade_stat _ _⟩

/-- `STAT` after any command: a seed tick's success, or a cause with `SEED = 0`. -/
theorem exec_stat {i : Instr} {s t : State} (h : exec i s = .next t) :
    ((i = .apply ∧ SeedTickDue s) ∧ t.stat = statWord .none true) ∨
    (¬ (i = .apply ∧ SeedTickDue s) ∧ ∃ c, t.stat = statWord c false) := by
  by_cases hi : i = .apply
  · subst hi
    simpa only [true_and] using execApply_stat h
  · exact .inr ⟨fun hdue => hi hdue.1, exec_stat_of_ne_apply h hi⟩

/-- The reserved bits of a reported status are 0. -/
theorem statWord_reserved (c : Cause) (b : Bool) :
    (statWord c b).extractLsb' 1 3 = 0 ∧ (statWord c b).extractLsb' 9 23 = 0 := by
  cases c <;> cases b <;> decide

/-- The causes are numbered 0 to 6 (60_exceptions.md R221). -/
theorem Cause.code_le (c : Cause) : c.code.toNat ≤ 6 := by
  cases c <;> decide

/-- A reported status has `OK = 1` exactly when its `CAUSE` field is 0. -/
theorem statOk_statWord_iff (c : Cause) (b : Bool) :
    statOk (statWord c b) = true ↔ statCause (statWord c b) = 0 := by
  rw [statOk_statWord, statCause_statWord, decide_eq_true_eq]
  exact (Cause.code_inj c .none).symm

/-- Settles O44: a command reports either a seed tick's success or a cause with `SEED = 0`, and both words are legal. -/
theorem everyCommandWritesALegalStatus : Obligations.EveryCommandWritesALegalStatus := by
  refine ⟨rfl, fun i s t h => ?_⟩
  obtain ⟨c, seed, hstat, hok, hseed⟩ : ∃ c seed, t.stat = statWord c seed ∧ (seed = true → c = .none) ∧
      (seed = true ↔ i = .apply ∧ SeedTickDue s) := by
    obtain ⟨hdue, hstat⟩ | ⟨hdue, c, hstat⟩ := exec_stat h
    · exact ⟨.none, true, hstat, fun _ => rfl, by simp [hdue]⟩
    · exact ⟨c, false, hstat, by simp, by simp [hdue]⟩
  rw [hstat]
  obtain ⟨hlow, hhigh⟩ := statWord_reserved c seed
  refine ⟨hlow, hhigh, ?cause, statOk_statWord_iff c seed, ?seedOk, ?seedTick⟩
  case cause =>
    have hcode : (statWord c seed).extractLsb' 4 4 = c.code := statCause_statWord c seed
    exact hcode ▸ c.code_le
  case seedOk =>
    intro hb
    have hseed : seed = true := (statSeed_statWord c seed).symm.trans hb
    exact (statOk_statWord c seed).trans (decide_eq_true (hok hseed))
  case seedTick =>
    have hb : (statWord c seed).getLsbD 8 = seed := statSeed_statWord c seed
    rw [hb]
    exact hseed

end Sys2Proof.Machine
end

section
/-! Reading the window: the fields of `STATE` (10_state.md R38). -/

namespace Sys2Proof.Machine

/-- A read of an admitted offset answers the register there and changes no register (20_memory.md R51). -/
theorem step_read {s : State} {agent off : Nat} {rest : List HostEvent} (hl : s.hw.legal = true)
    (ho : oneHost s.bus = true) (hoff : off < 64) (h4 : off % 4 = 0)
    (hb : s.bus = .access agent (.read (s.hw.base + off) 4) :: rest) :
    step s = .next { s with bus := rest, resp := .data (windowRead s off) } := by
  rw [step_cons hl ho hb]
  simp only [performEvent, performOp, locate_reg s.hw hoff h4]
  rfl

/-- Bits 0 to 4 of `STATE` are the mode flags and the variant. -/
theorem stateWord_flags (s : State) :
    (stateWord s).getLsbD 0 = s.inited ∧ (stateWord s).getLsbD 1 = s.en ∧ (stateWord s).getLsbD 2 = s.restart ∧
      (stateWord s).getLsbD 3 = s.cfgValid ∧ (stateWord s).getLsbD 4 = decide (s.hw.variant = .shift) := by
  have hvariant : decide (s.hw.variant = .shift) = variantBit s.hw.variant := by cases s.hw.variant <;> rfl
  rw [hvariant]
  unfold stateWord
  simp only [BitVec.getLsbD_append]
  simp

/-- The reserved bits of `STATE` are 0: bits 7:5 stand above the five flags, bits 31:16 above those and the count. -/
theorem stateWord_reserved (s : State) : (stateWord s).extractLsb' 5 3 = 0 ∧ (stateWord s).extractLsb' 16 16 = 0 := by
  unfold stateWord
  constructor
  · iterate 5 rw [BitVec.extractLsb'_append_eq_of_le (by decide)]
    exact BitVec.extractLsb'_append_eq_right
  · iterate 6 rw [BitVec.extractLsb'_append_eq_of_le (by decide)]
    exact BitVec.extractLsb'_append_eq_left

/-- Bits 15:8 of `STATE` are the pole count of an initialised core, and 0 before INIT. -/
theorem stateWord_count (s : State) :
    (stateWord s).extractLsb' 8 8 = BitVec.ofNat 8 (if s.inited then s.n else 0) := by
  unfold stateWord
  iterate 6 rw [BitVec.extractLsb'_append_eq_of_le (by decide)]
  exact BitVec.extractLsb'_append_eq_right

/-- `STATE` right after reset: only `RESTART` and the variant show. -/
theorem stateWord_resetWith (p : Params) :
    stateWord (State.resetWith p) = if p.variant = .shift then 0x00000014 else 0x00000004 := by
  have hword : stateWord (State.resetWith p) =
      0#16 ++ 0#8 ++ 0#3 ++ BitVec.ofBool (variantBit p.variant) ++ 0#1 ++ 1#1 ++ 0#1 ++ 0#1 := rfl
  rw [hword]
  cases p.variant <;> decide

/-- Settles O11: the read answers `STATE` field by field; the count fits its 8 bits because the invariant bounds `N` by a
legal `NPOLES_MAX`. -/
theorem stateRegisterShowsTheFlags : Obligations.StateRegisterShowsTheFlags := by
  refine ⟨stateWord_resetWith, fun s agent rest hinv ho hb => ?_⟩
  obtain ⟨hinited, hen, hrestart, hcfg, hvariant⟩ := stateWord_flags s
  obtain ⟨hlow, hhigh⟩ := stateWord_reserved s
  refine ⟨stateWord s, step_read hinv.legal ho (by decide) (by decide) hb, hinited, hen, hrestart, hcfg, hvariant, hlow,
    ?count, hhigh⟩
  obtain ⟨-, -, -, hcapacity, -⟩ := s.hw.legal_iff.1 hinv.legal
  have hn : s.n ≤ 255 := hinv.countInRange.2.trans hcapacity
  rw [stateWord_count, BitVec.toNat_ofNat]
  exact Nat.mod_eq_of_lt (by split <;> omega)

end Sys2Proof.Machine
end

section
/-! The filter's state machine (10_state.md R33, R34): each command's row of the transition table. -/

namespace Sys2Proof.Machine

/-! ### The states by their flags (10_state.md R33) -/

section
variable {s : State}

theorem filterState_eq_none_iff : filterState s = none ↔ s.inited = false := by
  unfold filterState
  cases s.inited <;> cases s.en <;> cases s.restart <;> decide

theorem filterState_eq_disabled_iff : filterState s = some .disabled ↔ s.inited = true ∧ s.en = false := by
  unfold filterState
  cases s.inited <;> cases s.en <;> cases s.restart <;> decide

theorem filterState_eq_enabledRestarting_iff :
    filterState s = some .enabledRestarting ↔ s.inited = true ∧ s.en = true ∧ s.restart = true := by
  unfold filterState
  cases s.inited <;> cases s.en <;> cases s.restart <;> decide

theorem filterState_eq_enabledSteady_iff :
    filterState s = some .enabledSteady ↔ s.inited = true ∧ s.en = true ∧ s.restart = false := by
  unfold filterState
  cases s.inited <;> cases s.en <;> cases s.restart <;> decide

/-- The filter's state is a function of `INITED`, `EN` and `RESTART`. -/
theorem filterState_congr {t : State} (hi : t.inited = s.inited) (he : t.en = s.en) (hr : t.restart = s.restart) :
    filterState t = filterState s := by
  unfold filterState
  rw [hi, he, hr]

@[simp] theorem filterState_report (c : Cause) (b : Bool) : filterState (s.report c b) = filterState s := rfl

end

/-! ### The mode flags after each shared operation -/

/-- INIT's choice of `CFG_VALID` and `SHIFT` leaves the mode flags alone (40_configure.md R112, R113). -/
theorem initConfigured_flags (s : State) :
    (initConfigured s).inited = s.inited ∧ (initConfigured s).en = s.en ∧ (initConfigured s).restart = s.restart := by
  unfold initConfigured
  split
  · exact ⟨rfl, rfl, rfl⟩
  · split <;> exact ⟨rfl, rfl, rfl⟩

/-- A successful `Configure` changes one mode flag at most, `RESTART`, as `RESTART_ON_RECONFIG` says (40_configure.md R105). -/
theorem configure_flags {fc t : Word} {s u : State} (h : configure fc t s = some u) :
    u.inited = s.inited ∧ u.en = s.en ∧ u.restart = (s.restart || s.hw.restartOnReconfig) := by
  obtain ⟨-, c, -, rfl⟩ | ⟨-, k, -, rfl⟩ := configure_some h <;> exact ⟨rfl, rfl, rfl⟩

/-- Step 3 of APPLY never clears `RESTART` (10_state.md R30). -/
theorem reconfigure_flags {req : Word} {s u : State} (h : reconfigure req s = some u) :
    u.inited = s.inited ∧ u.en = s.en ∧ (s.restart = true → u.restart = true) := by
  obtain ⟨-, -, rfl⟩ | ⟨-, h⟩ := reconfigure_some h
  · exact ⟨rfl, rfl, id⟩
  · obtain ⟨hi, he, hr⟩ := configure_flags h
    exact ⟨hi, he, fun hs => by simp [hr, hs]⟩

/-- A seed tick of an enabled core leaves it steady (41_apply.md R152). -/
theorem filterState_seedTick {sc : Int} {s : State} (hi : s.inited = true) (he : s.en = true) :
    filterState (seedTick sc s) = some .enabledSteady :=
  filterState_eq_enabledSteady_iff.2 ⟨hi, he, rfl⟩

/-- A cascade of a steady core leaves it restarting exactly where it reports an overflow (41_apply.md R150, R151). -/
theorem filterState_cascade {sc : Int} {s : State} (h : filterState s = some .enabledSteady) :
    filterState (cascade sc s) = some (if statCause (cascade sc s).stat = Cause.overflow.code
      then .enabledRestarting else .enabledSteady) := by
  obtain ⟨hi, he, hr⟩ := filterState_eq_enabledSteady_iff.1 h
  obtain ⟨-, -, hc⟩ | ⟨nps, out, -, hc⟩ := cascade_cases sc s <;> rw [hc]
  · have hcause : statCause (recover sc s).stat = Cause.overflow.code := statCause_statWord _ _
    rw [if_pos hcause]
    exact filterState_eq_enabledRestarting_iff.2 ⟨hi, he, rfl⟩
  · rw [if_neg (by simp)]
    exact filterState_eq_enabledSteady_iff.2 ⟨hi, he, hr⟩

/-! ### INIT (40_configure.md R110) -/

/-- INIT accepted: the filter restarts, enabled or disabled by the command's `E`. -/
theorem filterState_init_accepted {e : Bool} {s t : State} (h : execInit e s = .next t) (hr : initRejects s = false) :
    filterState t = some (if e then .enabledRestarting else .disabled) ∧ t.restart = true := by
  obtain ⟨hr', -⟩ | ⟨-, rfl⟩ := execInit_next h
  · simp [hr] at hr'
  · obtain ⟨hinited, hen, hrestart⟩ := initConfigured_flags (initRegisters e s)
    refine ⟨?_, hrestart⟩
    rw [filterState_report, filterState_congr hinited hen hrestart]
    cases e <;> rfl

/-- INIT rejected: no transition. -/
theorem filterState_init_rejected {e : Bool} {s t : State} (h : execInit e s = .next t) (hr : initRejects s = true) :
    filterState t = filterState s := by
  obtain ⟨-, rfl⟩ | ⟨hr', -⟩ := execInit_next h
  · rfl
  · simp [hr] at hr'

/-! ### RESTART and SETEN (42_control.md R190, R191) -/

/-- A successful RESTART sets the flag and no other. -/
theorem execRestart_of_inited {s t : State} (h : execRestart s = .next t) (hi : s.inited = true) :
    t = { s with restart := true }.report .none false := by
  obtain ⟨hi', -⟩ | ⟨-, ht⟩ := execRestart_next h
  · simp [hi] at hi'
  · exact ht

theorem filterState_restart_disabled {s t : State} (h : execRestart s = .next t) (hs : filterState s = some .disabled) :
    filterState t = some .disabled ∧ t.restart = true := by
  obtain ⟨hi, he⟩ := filterState_eq_disabled_iff.1 hs
  rw [execRestart_of_inited h hi]
  exact ⟨filterState_eq_disabled_iff.2 ⟨hi, he⟩, rfl⟩

theorem filterState_restart_enabled {s t : State} (h : execRestart s = .next t) (hi : s.inited = true)
    (he : s.en = true) : filterState t = some .enabledRestarting := by
  rw [execRestart_of_inited h hi]
  exact filterState_eq_enabledRestarting_iff.2 ⟨hi, he, rfl⟩

/-- Enabling a disabled core restarts it. -/
theorem filterState_seten_disabled {s t : State} (h : execSeten true s = .next t)
    (hs : filterState s = some .disabled) : filterState t = some .enabledRestarting := by
  obtain ⟨hi, he⟩ := filterState_eq_disabled_iff.1 hs
  obtain ⟨hi', -⟩ | ⟨-, -, -, rfl⟩ | ⟨-, hfalse, -⟩ | ⟨-, -, he', -⟩ := execSeten_next h
  · simp [hi] at hi'
  · exact filterState_eq_enabledRestarting_iff.2 ⟨hi, rfl, rfl⟩
  · simp at hfalse
  · simp [he] at he'

/-- Enabling an enabled core: no transition. -/
theorem filterState_seten_enabled {s t : State} (h : execSeten true s = .next t) (he : s.en = true) :
    filterState t = filterState s := by
  obtain ⟨-, rfl⟩ | ⟨-, -, he', -⟩ | ⟨-, hfalse, -⟩ | ⟨-, -, -, rfl⟩ := execSeten_next h
  · rfl
  · simp [he] at he'
  · simp at hfalse
  · rfl

/-- Disabling an initialised core. -/
theorem filterState_seten_false {s t : State} (h : execSeten false s = .next t) (hi : s.inited = true) :
    filterState t = some .disabled := by
  obtain ⟨hi', -⟩ | ⟨-, htrue, -⟩ | ⟨-, -, rfl⟩ | ⟨-, htrue, -⟩ := execSeten_next h
  · simp [hi] at hi'
  · simp at htrue
  · exact filterState_eq_disabled_iff.2 ⟨hi, rfl⟩
  · simp at htrue

/-! ### APPLY (41_apply.md R153) -/

/-- A disabled or uninitialised core keeps its state over an APPLY. -/
theorem filterState_apply_idle {s t : State} (h : execApply s = .next t) (hidle : s.inited = false ∨ s.en = false) :
    filterState t = filterState s := by
  obtain ⟨-, rfl⟩ | ⟨-, -, rfl⟩ | ⟨-, -, -, rfl⟩ | ⟨u, hi, he, -⟩ | ⟨u, hi, he, -⟩ := execApply_next h
  · rfl
  · rfl
  · rfl
  · simp [hi, he] at hidle
  · simp [hi, he] at hidle

/-- A tick of a restarting core is a seed tick, after which it is steady, or its configuration is rejected. -/
theorem filterState_apply_restarting {s t : State} (h : execApply s = .next t)
    (hs : filterState s = some .enabledRestarting) :
    (statSeed t.stat = true ∧ filterState t = some .enabledSteady) ∨
    (statCause t.stat = Cause.configRejected.code ∧ filterState t = some .enabledRestarting) := by
  obtain ⟨hi, he, hr⟩ := filterState_eq_enabledRestarting_iff.1 hs
  obtain ⟨hi', -⟩ | ⟨-, he', -⟩ | ⟨-, -, -, rfl⟩ | ⟨u, -, -, hu, -, rfl⟩ | ⟨u, -, -, hu, hres, -⟩ := execApply_next h
  · simp [hi] at hi'
  · simp [he] at he'
  · exact .inr ⟨statCause_statWord _ _, hs⟩
  · obtain ⟨hui, hue, -⟩ := reconfigure_flags hu
    exact .inl ⟨statSeed_statWord _ _, filterState_seedTick (hui.trans hi) (hue.trans he)⟩
  · obtain ⟨-, -, hkeep⟩ := reconfigure_flags hu
    simp [hkeep hr] at hres

/-- A tick of a steady core leaves it restarting exactly after an overflow. With `RESTART_ON_RECONFIG` the tick that
reconfigures is a seed tick, and so ends steady. -/
theorem filterState_apply_steady {s t : State} (h : execApply s = .next t) (hs : filterState s = some .enabledSteady) :
    filterState t = some (if statCause t.stat = Cause.overflow.code then .enabledRestarting else .enabledSteady) := by
  obtain ⟨hi, he, -⟩ := filterState_eq_enabledSteady_iff.1 hs
  obtain ⟨hi', -⟩ | ⟨-, he', -⟩ | ⟨-, -, -, rfl⟩ | ⟨u, -, -, hu, -, rfl⟩ | ⟨u, -, -, hu, hres, rfl⟩ := execApply_next h
  · simp [hi] at hi'
  · simp [he] at he'
  · rw [if_neg (by simp)]
    exact hs
  · obtain ⟨hui, hue, -⟩ := reconfigure_flags hu
    rw [if_neg (by simp [seedTick])]
    exact filterState_seedTick (hui.trans hi) (hue.trans he)
  · obtain ⟨hui, hue, -⟩ := reconfigure_flags hu
    exact filterState_cascade (filterState_eq_enabledSteady_iff.2 ⟨hui.trans hi, hue.trans he, hres⟩)

/-! ### CONFIG (40_configure.md R116) -/

/-- CONFIG of a steady core restarts it where it succeeds and `RESTART_ON_RECONFIG` holds (40_configure.md R105). -/
theorem filterState_config_steady {s t : State} (h : execConfig s = .next t) (hs : filterState s = some .enabledSteady) :
    filterState t = some (if statOk t.stat = true ∧ s.hw.restartOnReconfig = true
      then .enabledRestarting else .enabledSteady) := by
  obtain ⟨hi, he, hr⟩ := filterState_eq_enabledSteady_iff.1 hs
  obtain ⟨hi', -⟩ | ⟨-, -, rfl⟩ | ⟨u, -, hu, rfl⟩ := execConfig_next h
  · simp [hi] at hi'
  · rw [if_neg (by simp)]
    exact hs
  · obtain ⟨hui, hue, hur⟩ := configure_flags hu
    rw [hr, Bool.false_or] at hur
    cases hroc : s.hw.restartOnReconfig with
    | true => simpa using filterState_eq_enabledRestarting_iff.2 ⟨hui.trans hi, hue.trans he, hur.trans hroc⟩
    | false => simpa using filterState_eq_enabledSteady_iff.2 ⟨hui.trans hi, hue.trans he, hur.trans hroc⟩

/-- CONFIG in any other state: no transition, because `RESTART` is 1 already or is not looked at. -/
theorem filterState_config_not_steady {s t : State} (h : execConfig s = .next t)
    (hs : filterState s ≠ some .enabledSteady) : filterState t = filterState s := by
  obtain ⟨-, rfl⟩ | ⟨-, -, rfl⟩ | ⟨u, hi, hu, rfl⟩ := execConfig_next h
  · rfl
  · rfl
  · obtain ⟨hui, hue, hur⟩ := configure_flags hu
    rw [filterState_report]
    cases he : s.en with
    | false => rw [filterState_eq_disabled_iff.2 ⟨hi, he⟩, filterState_eq_disabled_iff.2 ⟨hui.trans hi, hue.trans he⟩]
    | true =>
      have hr : s.restart = true := by simpa [filterState_eq_enabledSteady_iff, hi, he] using hs
      exact filterState_congr hui hue (by simp [hur, hr])

/-! ### The read commands, and every command before INIT -/

theorem filterState_rdadc {s t : State} (h : execRdadc s = .next t) : filterState t = filterState s := by
  obtain ⟨-, rfl⟩ | ⟨-, rfl⟩ := execRdadc_next h <;> rfl

theorem filterState_rdwidth {s t : State} (h : execRdwidth s = .next t) : filterState t = filterState s := by
  obtain rfl := Host.Outcome.next.inj h
  rfl

/-- Before INIT no other command makes the machine's state defined (10_state.md R32, R33). -/
theorem filterState_uninited {i : Instr} {s t : State} (h : exec i s = .next t) (hs : filterState s = none)
    (hne : ∀ e, i ≠ .init e) : filterState t = none := by
  have hi : s.inited = false := filterState_eq_none_iff.1 hs
  rw [← hs]
  cases i with
  | init e => exact absurd rfl (hne e)
  | config => exact filterState_config_not_steady h (by simp [hs])
  | apply => exact filterState_apply_idle h (.inl hi)
  | restart =>
    obtain ⟨-, rfl⟩ | ⟨hi', -⟩ := execRestart_next h
    · rfl
    · simp [hi] at hi'
  | seten e =>
    obtain ⟨-, rfl⟩ | ⟨hi', -⟩ | ⟨hi', -⟩ | ⟨hi', -⟩ := execSeten_next h
    · rfl
    all_goals simp [hi] at hi'
  | rdadc => exact filterState_rdadc h
  | rdwidth => exact filterState_rdwidth h

/-- Settles O48: the transition table, each row by the lemma of its command. -/
theorem filterStateMachineFollowsItsTable : Obligations.FilterStateMachineFollowsItsTable := by
  intro i s t h
  refine ⟨?initAccepted, ?initRejected, filterState_uninited h, ?restartDisabled, ?restartEnabled, ?setenDisabled,
    ?setenEnabled, ?setenFalse, ?applyRestarting, ?applySteady, ?applyDisabled, ?configSteady, ?configElse, ?reads⟩
  case initAccepted => rintro e rfl; exact filterState_init_accepted h
  case initRejected => rintro e rfl; exact filterState_init_rejected h
  case restartDisabled => rintro rfl; exact filterState_restart_disabled h
  case restartEnabled => rintro rfl; exact filterState_restart_enabled h
  case setenDisabled => rintro rfl; exact filterState_seten_disabled h
  case setenEnabled => rintro rfl; exact filterState_seten_enabled h
  case setenFalse => rintro rfl; exact filterState_seten_false h
  case applyRestarting => rintro rfl; exact filterState_apply_restarting h
  case applySteady => rintro rfl; exact filterState_apply_steady h
  case applyDisabled =>
    rintro rfl hs
    exact (filterState_apply_idle h (.inr (filterState_eq_disabled_iff.1 hs).2)).trans hs
  case configSteady => rintro rfl; exact filterState_config_steady h
  case configElse => rintro rfl; exact filterState_config_not_steady h
  case reads =>
    rintro (rfl | rfl)
    · exact filterState_rdadc h
    · exact filterState_rdwidth h

end Sys2Proof.Machine
end

section
/-! The host's accesses: who may make them, which are faults, what an admitted one reads, stores or runs (20_memory.md R51
to R60). -/

namespace Sys2Proof.Machine

/-! ### Two host agents (20_memory.md R60) -/

/-- A core with legal parameters refuses its step when the pending program is not of one host. -/
theorem step_of_not_oneHost {s : State} (hl : s.hw.legal = true) (ho : oneHost s.bus = false) :
    step s = .refused .twoHosts := by
  unfold step performNext
  rw [if_neg (by simp [hl]), if_pos ho]

/-- Settles O4: one host would make any two pending accesses of the same agent. -/
theorem twoHostAgentsAreRefused : Obligations.TwoHostAgentsAreRefused := by
  intro s a b x y hl ha hb hab
  refine step_of_not_oneHost hl (Bool.eq_false_iff.2 fun ho => ?_)
  exact hab ((oneHost_iff s.bus).1 ho a x b y ha hb)

/-! ### Accesses the window does not admit (20_memory.md R52) -/

section
variable {s : State} {off n : Nat}

theorem performOp_read_misaccess (h : off < 64) (hn : n ≠ 4 ∨ off % 4 ≠ 0) :
    performOp (.read (s.hw.base + off) n) s = .fault .busError := by
  simp only [performOp, locate_misaccess s.hw h hn]

theorem performOp_write_misaccess (v : Word) (h : off < 64) (hn : n ≠ 4 ∨ off % 4 ≠ 0) :
    performOp (.write (s.hw.base + off) n v) s = .fault .busError := by
  simp only [performOp, locate_misaccess s.hw h hn]

end

/-- Settles O6: the step is the access, and the access lies in the window where R52 does not admit it. -/
theorem subWordOrMisalignedAccessIsABusError : Obligations.SubWordOrMisalignedAccessIsABusError := by
  intro s agent off n v rest hl ho hoff hn
  constructor
  · intro hb
    exact (step_cons hl ho hb).trans (performOp_read_misaccess (s := { s with bus := rest }) hoff hn)
  · intro hb
    exact (step_cons hl ho hb).trans (performOp_write_misaccess (s := { s with bus := rest }) v hoff hn)

/-! ### The register map (20_memory.md R51, R54) -/

/-- The map as seen by a read: every offset without a readable register reads 0. -/
theorem windowRead_eq (s : State) (off : Nat) :
    windowRead s off =
      if off = 0x04 then s.arg0 else if off = 0x08 then s.arg1 else if off = 0x0C then s.arg2
      else if off = 0x10 then s.arg3 else if off = 0x14 then s.arg4 else if off = 0x18 then s.res
      else if off = 0x1C then s.stat else if off = 0x20 then stateWord s else 0 := by
  unfold windowRead
  split
  case h_9 h0 h1 h2 h3 h4 hres hstat hstate =>
    rw [if_neg h0, if_neg h1, if_neg h2, if_neg h3, if_neg h4, if_neg hres, if_neg hstat, if_neg hstate]
  all_goals rfl

/-- The map as seen by a write: each operand register is stored at its own offset only, and nothing else is written. -/
theorem windowWrite_eq (off : Nat) (v : Word) (s : State) :
    windowWrite off v s = { s with
      arg0 := if off = 0x04 then v else s.arg0, arg1 := if off = 0x08 then v else s.arg1,
      arg2 := if off = 0x0C then v else s.arg2, arg3 := if off = 0x10 then v else s.arg3,
      arg4 := if off = 0x14 then v else s.arg4 } := by
  unfold windowWrite
  split
  case h_6 h0 h1 h2 h3 h4 => rw [if_neg h0, if_neg h1, if_neg h2, if_neg h3, if_neg h4]
  all_goals rfl

/-- A write of an admitted offset is performed on the core as it stands (20_memory.md R57). -/
theorem step_write {s : State} {agent off : Nat} {v : Word} {rest : List HostEvent} (hl : s.hw.legal = true)
    (ho : oneHost s.bus = true) (hoff : off < 64) (h4 : off % 4 = 0)
    (hb : s.bus = .access agent (.write (s.hw.base + off) 4 v) :: rest) :
    step s = performWrite off v { s with bus := rest } := by
  rw [step_cons hl ho hb]
  simp only [performEvent, performOp, locate_reg s.hw hoff h4]

/-- A write of anything but `CMD` is acknowledged and runs no command. -/
theorem performWrite_of_ne_zero {off : Nat} (v : Word) (s : State) (h : off ≠ 0) :
    performWrite off v s = .next (windowWrite off v { s with resp := .ack }) :=
  if_neg h

/-- Settles O8: reads by the map as `windowRead_eq` gives it, writes as `windowWrite_eq` gives it. -/
theorem accessesFollowTheRegisterMap : Obligations.AccessesFollowTheRegisterMap := by
  intro s agent off v rest hl ho hoff h4
  constructor
  · intro hb
    rw [step_read hl ho hoff h4 hb, windowRead_eq]
  · intro hb hcmd
    rw [step_write hl ho hoff h4 hb, performWrite_of_ne_zero v _ hcmd, windowWrite_eq]

/-! ### A write of `CMD` (20_memory.md R57) -/

theorem runCommand_of_decode {v : Word} {i : Instr} (s : State) (h : decode v = .ok i) : runCommand v s = exec i s := by
  unfold runCommand
  rw [h]

/-- A write of `CMD` is acknowledged with its command complete. -/
theorem performWrite_zero (v : Word) (s : State) : performWrite 0 v s = runCommand v { s with resp := .ack } :=
  if_pos rfl

/-- Settles O9: `CMD` is the register at offset 0, so the step is the write of that offset, which runs the command. -/
theorem stepRunsTheDecodedCommand : Obligations.StepRunsTheDecodedCommand := by
  intro s agent v i rest hl ho hb hv
  rw [step_write (off := 0) hl ho (by decide) (by decide) hb, performWrite_zero, runCommand_of_decode _ hv]

end Sys2Proof.Machine
end

section
/-! The decoder: a word is the command its fields `RSV`, `E`, `OP` spell, or it is illegal and only reports (30_encoding.md
R70 to R73, 60_exceptions.md R222). -/

namespace Sys2Proof

/-! ### A word and its fields (30_encoding.md R70) -/

theorem fields_append (w : Word) : rsvField w ++ BitVec.ofBool (eField w) ++ opField w = w := by
  have hE : BitVec.ofBool (w.getLsbD 8) = w.extractLsb' 8 1 := by
    ext k hk
    obtain rfl : k = 0 := by omega
    simp
  rw [rsvField, eField, opField, hE, BitVec.extractLsb'_append_extractLsb'_eq_extractLsb' (by decide : 9 = 8 + 1),
    BitVec.extractLsb'_append_extractLsb'_eq_extractLsb' (by decide : 8 = 0 + 8), BitVec.extractLsb'_eq_self]

@[simp] theorem rsvField_commandWord (op : BitVec 8) (e : Bool) : rsvField (commandWord op e) = 0 := by
  rw [rsvField, commandWord, BitVec.append_assoc]
  exact BitVec.extractLsb'_append_eq_left

@[simp] theorem eField_commandWord (op : BitVec 8) (e : Bool) : eField (commandWord op e) = e := by
  rw [eField, commandWord, BitVec.getLsbD_append, BitVec.getLsbD_append]
  simp

@[simp] theorem opField_commandWord (op : BitVec 8) (e : Bool) : opField (commandWord op e) = op :=
  BitVec.extractLsb'_append_eq_right

/-- A word is the command word of its opcode and `E` where the reserved bits are 0. -/
theorem commandWord_eq_iff {op : BitVec 8} {e : Bool} {w : Word} :
    commandWord op e = w ↔ rsvField w = 0 ∧ eField w = e ∧ opField w = op := by
  constructor
  · rintro rfl
    simp
  · rintro ⟨hr, rfl, rfl⟩
    have h := fields_append w
    rwa [hr] at h

theorem opField_eq_iff_toNat {w : Word} {op : BitVec 8} : opField w = op ↔ (opField w).toNat = op.toNat :=
  BitVec.toNat_inj.symm

/-! ### Decoder and encoder -/

theorem decode_encode (i : Instr) : decode (encode i) = .ok i := by
  cases i with
  | init e => cases e <;> rfl
  | seten e => cases e <;> rfl
  | config | apply | restart | rdadc | rdwidth => rfl

theorem encode_of_decode {w : Word} {i : Instr} (h : decode w = .ok i) : encode i = w := by
  unfold decode at h
  split at h
  · next hr =>
    split at h
    case h_8 => split at h <;> cases h
    all_goals
      cases h
      simp [encode, commandWord_eq_iff, opField_eq_iff_toNat, *]
  · cases h

/-- Every command has one word, and no other word decodes to it (30_encoding.md R72). -/
theorem decode_eq_ok_iff {w : Word} {i : Instr} : decode w = .ok i ↔ encode i = w := by
  constructor
  · exact encode_of_decode
  · rintro rfl
    exact decode_encode i

/-! ### The masks of the opcode table (30_encoding.md R72) -/

/-- A word matches an opcode without operand when it is the opcode's word. -/
theorem and_fullMask_eq_iff {w : Word} {op : BitVec 8} :
    w &&& 0xFFFFFFFF = commandWord op false ↔ commandWord op false = w := by
  rw [show (0xFFFFFFFF : Word) = BitVec.allOnes 32 from rfl, BitVec.and_allOnes, eq_comm]

/-- The mask that leaves out bit 8 clears `E` and keeps the other two fields. -/
theorem fields_and_enableMask (w : Word) :
    rsvField (w &&& 0xFFFFFEFF) = rsvField w ∧ eField (w &&& 0xFFFFFEFF) = false ∧
      opField (w &&& 0xFFFFFEFF) = opField w := by
  refine ⟨?rsv, ?e, ?op⟩
  case rsv =>
    rw [rsvField, BitVec.extractLsb'_and]
    exact BitVec.and_allOnes
  case e => simp [eField]
  case op =>
    rw [opField, BitVec.extractLsb'_and]
    exact BitVec.and_allOnes

/-- A word matches an opcode with the operand `E` when it is the opcode's word with its own bit 8. -/
theorem and_enableMask_eq_iff {w : Word} {op : BitVec 8} {e : Bool} :
    (w &&& 0xFFFFFEFF = commandWord op false ∧ e = eField w) ↔ commandWord op e = w := by
  obtain ⟨hr, he, ho⟩ := fields_and_enableMask w
  rw [eq_comm (b := commandWord op false), commandWord_eq_iff, commandWord_eq_iff, hr, he, ho]
  tauto

/-- Settles O14: each row's mask and match say that the word is the command's encoding. -/
theorem decodeFollowsTheOpcodeTable : Obligations.DecodeFollowsTheOpcodeTable := by
  intro w
  simp only [decode_eq_ok_iff]
  exact ⟨fun _ => and_enableMask_eq_iff.symm, and_fullMask_eq_iff.symm, and_fullMask_eq_iff.symm,
    and_fullMask_eq_iff.symm, fun _ => and_enableMask_eq_iff.symm, and_fullMask_eq_iff.symm, and_fullMask_eq_iff.symm⟩

/-! ### Illegal words (30_encoding.md R73, 60_exceptions.md R222) -/

/-- The decoder rejects a word whose opcode no command has, a word with a reserved bit, and a word with `E` under an opcode
without that operand. -/
theorem decode_error_iff (w : Word) :
    (∃ r, decode w = .error r) ↔
      opField w = 0x00 ∨ 0x08 ≤ (opField w).toNat ∨ rsvField w ≠ 0 ∨
        (eField w = true ∧ opField w ≠ 0x01 ∧ opField w ≠ 0x05) := by
  simp only [opField_eq_iff_toNat, ne_eq, BitVec.ofNat_eq_ofNat, BitVec.reduceToNat]
  unfold decode
  split
  · next hr =>
    split
    case h_8 hinit hseten hconfig happly hrestart hrdadc hrdwidth =>
      refine iff_of_true (by split <;> exact ⟨_, rfl⟩) ?_
      cases he : eField w with
      | false =>
        have hop : (opField w).toNat = 0 ∨ 8 ≤ (opField w).toNat := by
          simp only [he, forall_const, imp_false] at hinit hseten hconfig happly hrestart hrdadc hrdwidth
          omega
        exact hop.imp_right .inl
      | true => exact .inr (.inr (.inr ⟨rfl, hinit, hseten⟩))
    all_goals simp [*]
  · next hr => exact iff_of_true ⟨_, rfl⟩ (.inr (.inr (.inl hr)))

end Sys2Proof

namespace Sys2Proof.Machine

theorem runCommand_of_decode_error {v : Word} {r : DecodeReject} (s : State) (h : decode v = .error r) :
    runCommand v s = execIllegal s := by
  unfold runCommand
  rw [h]

theorem execIllegal_eq (s : State) : execIllegal s = .next { s with stat := 0x00000060 } := by
  rw [execIllegal, State.report, statWord_illegal]

/-- Settles O15: the rejected words by their fields, and the step as the write of `CMD` that runs no command. -/
theorem illegalWordsOnlyReport : Obligations.IllegalWordsOnlyReport := by
  intro v
  constructor
  · exact (decode_error_iff v).symm
  · intro s agent rest r hl ho hb hv
    rw [step_write (off := 0) hl ho (by decide) (by decide) hb, performWrite_zero, runCommand_of_decode_error _ hv,
      execIllegal_eq]

end Sys2Proof.Machine
end

section
/-! INIT, CONFIG and `Configure`: what each accepts and writes (40_configure.md R100 to R116). -/

namespace Sys2Proof

/-- In an ordered table no frequency is listed twice. -/
theorem nodup_freqs_of_tableOrdered {l : List (Nat × Nat)} (h : tableOrdered l = true) : (l.map Prod.fst).Nodup :=
  List.pairwise_map.2 ((pairwise_of_tableOrdered h).imp fun hab => hab.1.ne')

/-- With legal parameters the lookup finds every pair of the table, so the table is a function of the frequency. -/
theorem Params.shiftFor_of_mem {p : Params} (hl : p.legal = true) {fc k : Nat} (h : (fc, k) ∈ p.shiftTable) :
    p.shiftFor fc = some k := by
  obtain ⟨⟨-, -, -, hordered, -⟩, -⟩ := p.legal_iff.1 hl
  cases hk : p.shiftFor fc with
  | none => exact absurd (List.mem_map_of_mem h) ((p.shiftFor_none_iff fc).1 hk)
  | some k' =>
    have hpair := List.inj_on_of_nodup_map (nodup_freqs_of_tableOrdered hordered) (mem_of_lookup hk) h rfl
    rw [(Prod.mk.inj hpair).2]

end Sys2Proof

namespace Sys2Proof.Machine

/-! ### `Configure` by variant (40_configure.md R100 to R108) -/

theorem deriveCoef_of_accepted {p : Params} {fc t : Nat} (hfc : fc ≠ 0) (ht : t ≠ 0) (ha : accumOf p fc t < 2 ^ p.w) :
    deriveCoef p fc t = some ((accumOf p fc t * (2 ^ p.w - accumOf p fc t) + p.coefBias) / 2 ^ (p.w + p.f)) :=
  if_neg (by simp only [hfc, ht, false_or, not_le]; exact ha)

theorem deriveShift_of_refPeriod {p : Params} {t : Nat} (fc : Nat) (ht : t = p.refPeriod) :
    deriveShift p fc t = p.shiftFor fc :=
  if_pos ht

/-- In the MUL variant `Configure` is the derivation of the coefficient, then `Commit`. -/
theorem configure_of_mul (fc t : Word) {s : State} (h : s.hw.variant = .mul) :
    configure fc t s = (deriveCoef s.hw (u32 fc) (u32 t)).map fun c => commit fc t { s with coef := c } := by
  simp only [configure, h, configureMul]
  split <;> simp [*]

/-- In the SHIFT variant `Configure` is the choice of the shift factor, then `Commit`. -/
theorem configure_of_shift (fc t : Word) {s : State} (h : s.hw.variant = .shift) :
    configure fc t s = (deriveShift s.hw (u32 fc) (u32 t)).map fun k => commit fc t { s with shift := k } := by
  simp only [configure, h, configureShift]
  split <;> simp [*]

/-- `Commit` with the rule's "if `RESTART_ON_RECONFIG`" written out (40_configure.md R105). -/
theorem commit_eq (fc t : Word) (s : State) :
    commit fc t s = { s with
      fc := fc, t := t, cfgValid := true, restart := if s.hw.restartOnReconfig then true else s.restart } := by
  unfold commit
  cases s.hw.restartOnReconfig <;> simp

/-- Settles O18: each variant's derivation accepts exactly as the rule says, and `Commit` follows it. -/
theorem configureFollowsItsRules : Obligations.ConfigureFollowsItsRules := by
  intro fc t s
  refine ⟨fun hv => ⟨fun hrej => ?mulRejects, fun hfc ht ha => ?mulAccepts⟩,
    fun hv => ⟨fun hrej => ?shiftRejects, fun k hl ht hk => ?shiftAccepts⟩, rfl, rfl⟩
  case mulRejects => rw [configure_of_mul fc t hv, deriveCoef_none_iff.2 hrej, Option.map_none]
  case mulAccepts =>
    rw [configure_of_mul fc t hv, deriveCoef_of_accepted hfc ht ha, Option.map_some, commit_eq,
      Nat.shiftRight_eq_div_pow]
  case shiftRejects => rw [configure_of_shift fc t hv, deriveShift_none_iff.2 hrej, Option.map_none]
  case shiftAccepts =>
    rw [configure_of_shift fc t hv, deriveShift_of_refPeriod _ ht, Params.shiftFor_of_mem hl hk, Option.map_some,
      commit_eq]

/-! ### The range of the derived coefficient (40_configure.md R104) -/

/-- The product of two numbers with sum `2^W` is at most `2^(2W-2)`. -/
theorem mul_comp_le {w a : Nat} (hw : 1 ≤ w) (ha : a ≤ 2 ^ w) : a * (2 ^ w - a) ≤ 2 ^ (2 * w - 2) := by
  have hsq : 4 * a * (2 ^ w - a) ≤ (a + (2 ^ w - a)) ^ 2 := four_mul_le_sq_add a (2 ^ w - a)
  have hpow : (2 ^ w) ^ 2 = 4 * 2 ^ (2 * w - 2) := by
    rw [← pow_mul, show (4 : Nat) = 2 ^ 2 from rfl, ← pow_add]
    congr 1
    omega
  rw [Nat.add_sub_cancel' ha, hpow, mul_assoc] at hsq
  exact Nat.le_of_mul_le_mul_left hsq (by decide)

section
variable {p : Params} {fc t c : Nat} (hl : p.legal = true) (h : deriveCoef p fc t = some c)
include hl h

/-- `COEF < 2^F` always: the product is at most a quarter of `2^(W+2F)`, and the bias at most half of it. -/
theorem deriveCoef_lt : c < 2 ^ p.f := by
  obtain ⟨⟨hw, -⟩, hf, -, -, hbias, -⟩ := p.legal_iff.1 hl
  obtain ⟨-, -, ha, rfl⟩ := deriveCoef_some h
  have hprod := mul_comp_le (by omega) ha.le
  have hquarter : 2 ^ p.f * 2 ^ (p.w + p.f) = 4 * 2 ^ (2 * p.w - 2) := by
    rw [show (4 : Nat) = 2 ^ 2 from rfl, ← pow_add, ← pow_add]
    congr 1
    omega
  have hhalf : 2 ^ (p.w + p.f) ≤ 2 * 2 ^ (2 * p.w - 2) := by
    rw [← pow_succ']
    exact Nat.pow_le_pow_right (by decide) (by omega)
  rw [Nat.div_lt_iff_lt_mul (by positivity), hquarter]
  omega

/-- With a bias of half the divisor the product's bound is the coefficient's: rounding half up does not pass it. -/
theorem deriveCoef_le_of_halfBias (hf : 2 ≤ p.f) (hbias : p.coefBias = 2 ^ (p.w + p.f - 1)) : c ≤ 2 ^ (p.f - 2) := by
  obtain ⟨⟨hw, -⟩, -⟩ := p.legal_iff.1 hl
  obtain ⟨-, -, ha, rfl⟩ := deriveCoef_some h
  have hprod := mul_comp_le (by omega) ha.le
  have hbound : 2 ^ (p.f - 2) * 2 ^ (p.w + p.f) = 2 ^ (2 * p.w - 2) := by
    rw [← pow_add]
    congr 1
    omega
  have hbiasLt : p.coefBias < 2 ^ (p.w + p.f) := by
    rw [hbias]
    exact Nat.pow_lt_pow_right (by decide) (by omega)
  rw [← Nat.lt_succ_iff, Nat.div_lt_iff_lt_mul (by positivity), Nat.succ_mul, hbound]
  omega

end

/-- Settles O20: the accepted derivation is R104's quotient, whose two bounds are those of `deriveCoef`. -/
theorem derivedCoefficientIsRoundedAndBounded : Obligations.DerivedCoefficientIsRoundedAndBounded := by
  refine ⟨fun fc t s hl hv hfc ht ha => ?_, rfl, by decide⟩
  have hc := deriveCoef_of_accepted hfc ht ha
  exact ⟨_, by rw [configure_of_mul fc t hv, hc, Option.map_some], rfl, deriveCoef_lt hl hc,
    deriveCoef_le_of_halfBias hl hc⟩

/-! ### INIT (40_configure.md R110 to R113) -/

theorem initRejects_iff (s : State) :
    initRejects s = true ↔
      u32 s.arg0 = 0 ∨ u32 s.arg1 = 0 ∨ 2 ^ s.hw.f ≤ u32 s.arg2 ∨ u32 s.arg4 < 1 ∨ s.hw.npolesMax < u32 s.arg4 := by
  simp only [initRejects, Bool.or_eq_true, decide_eq_true_eq, or_assoc]

theorem execInit_of_rejects (e : Bool) {s : State} (h : initRejects s = true) :
    execInit e s = .next { s with stat := 0x00000040 } := by
  rw [execInit, if_pos h, State.report, statWord_badArg]

theorem execInit_of_accepts (e : Bool) {s : State} (h : initRejects s = false) :
    execInit e s = .next { initConfigured (initRegisters e s) with stat := 0x00000001 } := by
  rw [execInit, if_neg (by simp [h]), State.report, statWord_none]

section
variable {s : State}

theorem initConfigured_of_mul (hv : s.hw.variant = .mul) : initConfigured s = { s with cfgValid := true } := by
  simp only [initConfigured, hv]

theorem initConfigured_of_supported {k : Nat} (hv : s.hw.variant = .shift)
    (hk : deriveShift s.hw (u32 s.fc) (u32 s.t) = some k) :
    initConfigured s = { s with shift := k, cfgValid := true } := by
  simp only [initConfigured, hv, hk]

theorem initConfigured_of_unsupported (hv : s.hw.variant = .shift)
    (hk : deriveShift s.hw (u32 s.fc) (u32 s.t) = none) :
    initConfigured s = { s with cfgValid := false } := by
  simp only [initConfigured, hv, hk]

end

/-- Settles O17: the check by its five grounds, then the registers of both variants and each variant's `CFG_VALID`. -/
theorem initConstructsTheFilter : Obligations.InitConstructsTheFilter := by
  intro e s
  refine ⟨fun hrej => execInit_of_rejects e ((initRejects_iff s).2 hrej), fun hfc ht hcoef hn hmax => ?_⟩
  have hacc : initRejects s = false := by
    rw [Bool.eq_false_iff, Ne, initRejects_iff]
    simp only [not_or, not_le, not_lt]
    exact ⟨hfc, ht, hcoef, hn, hmax⟩
  have hexec : exec (.init e) s = .next { initConfigured (initRegisters e s) with stat := 0x00000001 } :=
    execInit_of_accepts e hacc
  rw [hexec]
  refine ⟨fun hv => ?mul, fun k hv href hk => ?supported, fun hv hunsupported => ?unsupported⟩
  case mul => rw [initConfigured_of_mul (s := initRegisters e s) hv]; rfl
  case supported =>
    rw [initConfigured_of_supported (s := initRegisters e s) hv ((deriveShift_of_refPeriod _ href).trans hk)]; rfl
  case unsupported =>
    rw [initConfigured_of_unsupported (s := initRegisters e s) hv (deriveShift_none_iff.2 hunsupported)]; rfl

/-! ### CONFIG (40_configure.md R116) -/

/-- Settles O19: the three answers of CONFIG, by `INITED` and by what `Configure` returns. -/
theorem configRunsConfigure : Obligations.ConfigRunsConfigure := by
  intro s
  refine ⟨fun hi => ?notInit, fun hi hc => ?rejected, fun u hi hc => ?accepted⟩
  case notInit => rw [exec, execConfig, if_pos hi, State.report, statWord_notInit]
  case rejected =>
    rw [exec, execConfig, if_neg (by simp [hi])]
    simp only [hc, State.report, statWord_configRejected]
  case accepted =>
    rw [exec, execConfig, if_neg (by simp [hi])]
    simp only [hc, State.report, statWord_none]

end Sys2Proof.Machine
end

section
/-! The number facts of one stage: the sign of a wrapped sum or difference, the overflow predicates, the scaler and the
split of the difference (41_apply.md R141 to R144, R157). -/

namespace Sys2Proof.Machine

/-! ### The sign of a wrapped sum or difference (00_scope.md R11) -/

section
variable {w : Nat} (hw : 1 ≤ w) {a b r v : Int}
include hw

/-- A value below the W-bit range by less than `2^W` wraps to the value `2^W` above it. -/
theorem wrap_of_below (h : InRange w (v + 2 ^ w)) : wrap w v = v + 2 ^ w := by
  rw [← wrap_of_inRange hw h]
  simpa [wrap] using (Int.add_bmod_right v (2 ^ w)).symm

/-- A value above the W-bit range by less than `2^W` wraps to the value `2^W` below it. -/
theorem wrap_of_above (h : InRange w (v - 2 ^ w)) : wrap w v = v - 2 ^ w := by
  rw [← wrap_of_inRange hw h]
  simpa [wrap] using (Int.sub_bmod_right v (2 ^ w)).symm

/-- A value of at most one bit more than `W` keeps its sign when wrapped exactly where it is a W-bit value. Sums and
differences of W-bit values are such values. -/
theorem wrap_neg_iff (hlo : -2 ^ w ≤ v) (hhi : v < 2 ^ w) : wrap w v < 0 ↔ (InRange w v ↔ v < 0) := by
  have hsplit := two_pow_split hw
  by_cases hv : InRange w v
  · rw [wrap_of_inRange hw hv, iff_true_left hv]
  · rw [iff_false_left hv]
    unfold InRange at hv
    by_cases hneg : v < 0
    · rw [wrap_of_below hw (by unfold InRange; omega)]
      omega
    · rw [wrap_of_above hw (by unfold InRange; omega)]
      omega

theorem wrap_add_neg_iff (ha : InRange w a) (hb : InRange w b) :
    wrap w (a + b) < 0 ↔ (InRange w (a + b) ↔ a + b < 0) := by
  have hsplit := two_pow_split hw
  unfold InRange at ha hb
  exact wrap_neg_iff hw (by omega) (by omega)

theorem wrap_sub_neg_iff (ha : InRange w a) (hb : InRange w b) :
    wrap w (a - b) < 0 ↔ (InRange w (a - b) ↔ a - b < 0) := by
  have hsplit := two_pow_split hw
  unfold InRange at ha hb
  exact wrap_neg_iff hw (by omega) (by omega)

/-! ### The overflow predicate of a sum (41_apply.md R141) -/

/-- The predicate on W-bit values, by their signs. -/
theorem ovf_iff (ha : InRange w a) (hb : InRange w b) (hr : InRange w r) :
    ovf w a b r = true ↔ (a < 0 ↔ b < 0) ∧ ¬ (r < 0 ↔ a < 0) := by
  rw [ovf, sgn_of_inRange hw ha, sgn_of_inRange hw hb, sgn_of_inRange hw hr]
  simp

/-- The predicate is exact for a wrapped sum. -/
theorem ovf_wrap_add_iff (ha : InRange w a) (hb : InRange w b) :
    ovf w a b (wrap w (a + b)) = true ↔ ¬ InRange w (a + b) := by
  rw [ovf_iff hw ha hb (wrap_inRange hw _), wrap_add_neg_iff hw ha hb]
  unfold InRange at *
  omega

/-- A sum that is a W-bit value is not reported. -/
theorem ovf_wrap_add_eq_false (ha : InRange w a) (hb : InRange w b) (h : InRange w (a + b)) :
    ovf w a b (wrap w (a + b)) = false :=
  Bool.eq_false_iff.2 fun ho => (ovf_wrap_add_iff hw ha hb).1 ho h

end

/-- Settles O30: the predicate by signs, and its exactness for sums. -/
theorem overflowPredicateIsExactForSums : Obligations.OverflowPredicateIsExactForSums :=
  fun _ _ _ hw ha hb => ⟨fun _ hr => ovf_iff hw ha hb hr, ovf_wrap_add_iff hw ha hb⟩

/-! ### The check of the subtraction under both rules (41_apply.md R142, R157) -/

section
variable {p : Params} {a b : Int}

theorem subCheck_of_sameSign (h : p.subOvfRule = .sameSign) (d : Int) : subCheck p a b d = ovf p.w a b d := by
  simp only [subCheck, h]

theorem subCheck_of_twosComplementSub (h : p.subOvfRule = .twosComplementSub) (d : Int) :
    subCheck p a b d = decide (sgn p.w a ≠ sgn p.w b ∧ sgn p.w d ≠ sgn p.w a) := by
  rw [Bool.eq_iff_iff]
  simp [subCheck, h]

variable (hw : 1 ≤ p.w) (ha : InRange p.w a) (hb : InRange p.w b)
include hw ha hb

/-- `SAME_SIGN` reports a difference of values of one sign by its own sign: such a difference is a W-bit value. -/
theorem subCheck_sameSign_iff (h : p.subOvfRule = .sameSign) :
    subCheck p a b (wrap p.w (a - b)) = true ↔ (a < 0 ↔ b < 0) ∧ ¬ (a < b ↔ a < 0) := by
  rw [subCheck_of_sameSign h, ovf_iff hw ha hb (wrap_inRange hw _), wrap_sub_neg_iff hw ha hb]
  unfold InRange at *
  omega

/-- `TWOS_COMPLEMENT_SUB` is the exact check. -/
theorem subCheck_twosComplementSub_iff (h : p.subOvfRule = .twosComplementSub) :
    subCheck p a b (wrap p.w (a - b)) = true ↔ ¬ InRange p.w (a - b) := by
  rw [subCheck_of_twosComplementSub h, decide_eq_true_eq, sgn_of_inRange hw ha, sgn_of_inRange hw hb,
    sgn_of_inRange hw (wrap_inRange hw _)]
  simp only [ne_eq, decide_eq_decide, wrap_sub_neg_iff hw ha hb]
  unfold InRange at *
  omega

end

/-- Settles O31: each rule's check as written, and the exactness of `TWOS_COMPLEMENT_SUB`. -/
theorem subtractionCheckOfBothRules : Obligations.SubtractionCheckOfBothRules :=
  fun _ _ _ hw ha hb => ⟨fun h => subCheck_of_sameSign h _,
    fun h => ⟨subCheck_of_twosComplementSub h _, subCheck_twosComplementSub_iff hw ha hb h⟩, rfl⟩

/-- Settles O37: `SAME_SIGN` by the three sign patterns; the exact check by the range of the difference. -/
theorem sameSignRuleReportsFallingInputs : Obligations.SameSignRuleReportsFallingInputs := by
  intro p cur pole hw hc hp
  refine ⟨fun h => ?sameSign, fun h => ?exact⟩
  case sameSign =>
    have hiff := subCheck_sameSign_iff hw hc hp h
    refine ⟨fun _ _ => ?nonneg, fun _ _ => ?neg, fun _ => Bool.eq_false_iff.2 fun hrep => ?mixed⟩
    case nonneg => rw [hiff]; omega
    case neg => rw [hiff]; omega
    case mixed => have hsigns := hiff.1 hrep; omega
  case exact =>
    have hiff := subCheck_twosComplementSub_iff hw hc hp h
    refine ⟨fun _ => Bool.eq_false_iff.2 fun hrep => hiff.1 hrep ?_, fun _ => hiff⟩
    unfold InRange at *
    omega

/-! ### The scaler and the split of the difference (41_apply.md R143, R144) -/

section
variable {p : Params} (hl : p.legal = true)
include hl

theorem one_le_w_of_legal : 1 ≤ p.w := by
  obtain ⟨⟨hw, -⟩, hf, -⟩ := p.legal_iff.1 hl
  omega

/-- `W = 2F` (00_scope.md R9). -/
theorem w_sub_f_of_legal : p.w - p.f = p.f := by
  obtain ⟨⟨hw, -⟩, -⟩ := p.legal_iff.1 hl
  omega

/-- The bound of `W` bits is the bound of `W - F` bits, scaled by `2^F`. -/
theorem two_pow_pred_w_of_legal : (2 : Int) ^ (p.w - 1) = 2 ^ (p.w - p.f - 1) * 2 ^ p.f := by
  obtain ⟨⟨hw, -⟩, hf, -⟩ := p.legal_iff.1 hl
  rw [← pow_add]
  congr 1
  omega

/-- Scaling by `2^F` takes values of `W - F` bits to values of `W` bits. -/
theorem scaled_inRange {raw : Int} (h : InRange (p.w - p.f) raw) : InRange p.w (raw * 2 ^ p.f) := by
  obtain ⟨hlo, hhi⟩ := h
  rw [InRange, two_pow_pred_w_of_legal hl, ← neg_mul]
  exact ⟨mul_le_mul_of_nonneg_right hlo (by positivity), mul_lt_mul_of_pos_right hhi (by positivity)⟩

end

/-- Settles O32: the scaler is `wrap`, and `wrap` leaves a W-bit product as it is. -/
theorem scalerWrapsModuloTheWordSize : Obligations.ScalerWrapsModuloTheWordSize := by
  intro p raw hl
  have hw := one_le_w_of_legal hl
  exact ⟨wrap_inRange hw _, wrap_congr _ _, fun h => wrap_of_inRange hw (scaled_inRange hl h)⟩

theorem intPart_mul_add_fracPart (p : Params) (d : Int) : intPart p d * 2 ^ p.f + fracPart p d = d := by
  rw [intPart, asr, fracPart, maskLow_cast, Int.ediv_mul_add_emod]

/-- Settles O33: quotient and residue modulo `2^F`. -/
theorem differenceSplitsExactly : Obligations.DifferenceSplitsExactly :=
  fun p d => ⟨(intPart_mul_add_fracPart p d).symm, maskLow_lt d p.f⟩

end Sys2Proof.Machine
end

section
/-! One stage of the cascade: the lag value lies between 0 and the difference, so the new pole lies between the old pole
and the input (41_apply.md R145 to R149, R154, R156). -/

namespace Sys2Proof.Machine

/-! ### Between 0 and the difference -/

/-- A rounded quotient `(d * c + b) / m` with `c ≤ m` and a rounding bias below the divisor lies between 0 and `d`. -/
theorem scaled_div_between (d : Int) {c b m : Int} (hc : 0 ≤ c) (hcm : c ≤ m) (hb : 0 ≤ b) (hbm : b < m) :
    min 0 d ≤ (d * c + b) / m ∧ (d * c + b) / m ≤ max 0 d := by
  have hm : 0 < m := by omega
  rw [Int.le_ediv_iff_mul_le hm, ← Int.lt_add_one_iff (b := max 0 d), Int.ediv_lt_iff_lt_mul hm]
  rcases Int.lt_or_le d 0 with hd | hd
  · rw [min_eq_right hd.le, max_eq_left hd.le]
    constructor <;> nlinarith
  · rw [min_eq_left hd, max_eq_right hd]
    constructor <;> nlinarith

/-- The arithmetic shift lies between 0 and its argument (41_apply.md R148). -/
theorem asr_between (d : Int) (k : Nat) : min 0 d ≤ asr d k ∧ asr d k ≤ max 0 d := by
  have hm : (0 : Int) < 2 ^ k := by positivity
  simpa [asr] using scaled_div_between d (c := 1) zero_le_one hm le_rfl hm

/-- A value between 0 and a W-bit value is a W-bit value. -/
theorem inRange_of_between {w : Nat} {d x : Int} (hd : InRange w d) (h : min 0 d ≤ x ∧ x ≤ max 0 d) : InRange w x := by
  have h0 := zero_inRange w
  unfold InRange at *
  omega

/-! ### The lag value of the MUL variant (41_apply.md R145 to R147) -/

theorem fracTerm_cast (p : Params) (coef : Nat) (d : Int) :
    (fracTerm p coef d : Int) = (d % 2 ^ p.f * coef + p.cascadeBias) / 2 ^ (p.w - p.f) := by
  rw [fracTerm, fracPart, ← maskLow_cast]
  push_cast
  rfl

section
variable {p : Params} (hl : p.legal = true)
include hl

/-- The two terms together are the rounded product with the whole difference. -/
theorem intTerm_add_fracTerm (coef : Nat) (d : Int) :
    intTerm p coef d + fracTerm p coef d = (d * coef + p.cascadeBias) / 2 ^ p.f := by
  have hsplit : d * coef + p.cascadeBias = d % 2 ^ p.f * coef + p.cascadeBias + intTerm p coef d * 2 ^ p.f := by
    have hd := intPart_mul_add_fracPart p d
    rw [fracPart, maskLow_cast] at hd
    rw [intTerm]
    linear_combination -(coef : Int) * hd
  rw [hsplit, Int.add_mul_ediv_right _ _ (by positivity), fracTerm_cast, w_sub_f_of_legal hl, add_comm]

/-- The bias of the cascade is below the divisor of the fractional product. -/
theorem cascadeBias_lt : (p.cascadeBias : Int) < 2 ^ p.f := by
  obtain ⟨-, -, -, -, -, hbias⟩ := p.legal_iff.1 hl
  rw [w_sub_f_of_legal hl] at hbias
  exact_mod_cast hbias

/-- The integer part of a W-bit value has `W - F` bits (41_apply.md R144). -/
theorem intPart_inRange {d : Int} (hd : InRange p.w d) : InRange (p.w - p.f) (intPart p d) := by
  have hm : (0 : Int) < 2 ^ p.f := by positivity
  rw [InRange, two_pow_pred_w_of_legal hl, ← neg_mul] at hd
  exact ⟨(Int.le_ediv_iff_mul_le hm).2 hd.1, (Int.ediv_lt_iff_lt_mul hm).2 hd.2⟩

/-- The fractional part of a value is a W-bit value (41_apply.md R144). -/
theorem fracPart_inRange (d : Int) : InRange p.w (fracPart p d) := by
  obtain ⟨⟨hw, -⟩, hf, -⟩ := p.legal_iff.1 hl
  have hlt : (fracPart p d : Int) < 2 ^ p.f := mod_cast maskLow_lt d p.f
  have hle : (2 : Int) ^ p.f ≤ 2 ^ (p.w - 1) := pow_le_pow_right₀ (by decide) (by omega)
  unfold InRange
  omega

section
variable {coef : Nat} (hc : coef < 2 ^ p.f) {d : Int}
include hc

/-- The two terms together lie between 0 and the difference. -/
theorem intTerm_add_fracTerm_between :
    min 0 d ≤ intTerm p coef d + fracTerm p coef d ∧ intTerm p coef d + fracTerm p coef d ≤ max 0 d := by
  rw [intTerm_add_fracTerm hl]
  exact scaled_div_between d (by positivity) (mod_cast hc.le) (by positivity) (cascadeBias_lt hl)

/-- The fractional term is a W-bit value: it lies between 0 and the fractional part (41_apply.md R146). -/
theorem fracTerm_inRange : InRange p.w (fracTerm p coef d) := by
  rw [fracTerm_cast, w_sub_f_of_legal hl, ← maskLow_cast]
  exact inRange_of_between (fracPart_inRange hl d)
    (scaled_div_between _ (by positivity) (mod_cast hc.le) (by positivity) (cascadeBias_lt hl))

variable (hd : InRange p.w d)
include hd

/-- The integer term is a W-bit value: it lies between 0 and the difference without its fractional part (41_apply.md R145). -/
theorem intTerm_inRange : InRange p.w (intTerm p coef d) := by
  have hm : (0 : Int) < 2 ^ p.f := by positivity
  have hterm : (intPart p d * 2 ^ p.f * coef + 0) / 2 ^ p.f = intTerm p coef d := by
    rw [add_zero, mul_right_comm, Int.mul_ediv_cancel _ hm.ne', intTerm]
  rw [← hterm]
  exact inRange_of_between (scaled_inRange hl (intPart_inRange hl hd))
    (scaled_div_between _ (by positivity) (mod_cast hc.le) le_rfl hm)

/-- The lag adder of the MUL variant never overflows (41_apply.md R147). -/
theorem lagValue_of_mul (hv : p.variant = .mul) (shift : Nat) :
    lagValue p coef shift d = .ok (intTerm p coef d + fracTerm p coef d) := by
  have hw := one_le_w_of_legal hl
  have hsum := inRange_of_between hd (intTerm_add_fracTerm_between hl hc)
  have hovf := ovf_wrap_add_eq_false hw (intTerm_inRange hl hc hd) (fracTerm_inRange hl hc) hsum
  rw [wrap_of_inRange hw hsum] at hovf
  simp [lagValue, hv, wrap_of_inRange hw hsum, hovf]

/-- In both variants the lag value lies between 0 and the difference. -/
theorem lagValue_between (shift : Nat) :
    ∃ lag, lagValue p coef shift d = .ok lag ∧ min 0 d ≤ lag ∧ lag ≤ max 0 d := by
  cases hv : p.variant with
  | mul => exact ⟨_, lagValue_of_mul hl hc hd hv shift, intTerm_add_fracTerm_between hl hc⟩
  | shift => exact ⟨_, lagValue_shift hv coef shift d, asr_between d shift⟩

end

/-- The pole adder does not overflow where the sum is a W-bit value (41_apply.md R149). -/
theorem addPole_of_inRange {lag pole : Int} (hlag : InRange p.w lag) (hpole : InRange p.w pole)
    (hsum : InRange p.w (lag + pole)) : addPole p lag pole = .ok (lag + pole) := by
  have hw := one_le_w_of_legal hl
  rw [addPole, if_neg (by simp [ovf_wrap_add_eq_false hw hlag hpole hsum]), wrap_of_inRange hw hsum]

end

/-- Settles O34: the lag value is the sum of the two terms, and with half the divisor as the bias that sum is the rounded
product; the special cases compute its quotient. -/
theorem mulLagHasTheClosedForm : Obligations.MulLagHasTheClosedForm := by
  intro p coef shift d hl hv hbias hc hd
  obtain ⟨-, hf, -⟩ := p.legal_iff.1 hl
  have hhalf : (2 : Int) ^ p.f = 2 * 2 ^ (p.f - 1) := two_pow_split hf
  have hpos : (0 : Int) < 2 ^ (p.f - 1) := by positivity
  have hclosed : intTerm p coef d + fracTerm p coef d = (d * coef + 2 ^ (p.f - 1)) / 2 ^ p.f := by
    rw [intTerm_add_fracTerm hl, hbias, w_sub_f_of_legal hl]
    push_cast
    rfl
  have hlag := lagValue_of_mul hl hc hd hv shift
  rw [hclosed] at hlag
  have hround : (2 ^ (p.f - 1) : Int) / 2 ^ p.f = 0 := Int.ediv_eq_zero_of_lt hpos.le (by omega)
  refine ⟨hclosed, hlag, fun h0 => ⟨?zeroCoef, fun pole hpole => ?keepsPole⟩, fun h0 => ?zero, fun h1 => ?minusOne⟩
  case zeroCoef => rw [hlag, h0, Nat.cast_zero, mul_zero, zero_add, hround]
  case keepsPole =>
    simpa using addPole_of_inRange hl (zero_inRange p.w) hpole (by simpa using hpole)
  case zero => rw [hlag, h0, zero_mul, zero_add, hround]
  case minusOne =>
    have hlt : (coef : Int) < 2 ^ p.f := mod_cast hc
    have hle : coef ≤ 2 ^ (p.f - 1) ↔ (coef : Int) ≤ 2 ^ (p.f - 1) := by norm_cast
    rw [hlag, h1]
    congr 1
    rw [Int.ediv_eq_iff_of_pos (by omega)]
    simp only [hle]
    split <;> omega

/-- A stage whose difference is a W-bit value and is not reported passes, with a new pole between the old one and the input
(41_apply.md R156). -/
theorem stage_between {p : Params} (hl : p.legal = true) {coef : Nat} (hc : coef < 2 ^ p.f) (shift : Nat) {cur pole : Int}
    (hcur : InRange p.w cur) (hpole : InRange p.w pole) (hd : InRange p.w (cur - pole))
    (hsub : subCheck p cur pole (cur - pole) = false) :
    ∃ np, stage p coef shift cur pole = .ok np ∧ min pole cur ≤ np ∧ np ≤ max pole cur := by
  obtain ⟨lag, hlag, hbetween⟩ := lagValue_between hl hc hd shift
  have hnew : min pole cur ≤ lag + pole ∧ lag + pole ≤ max pole cur := by omega
  have hadd := addPole_of_inRange hl (inRange_of_between hd hbetween) hpole (by unfold InRange at *; omega)
  refine ⟨lag + pole, ?_, hnew⟩
  simp [stage, wrap_of_inRange (one_le_w_of_legal hl) hd, hsub, hlag, hadd]

/-- Settles O36: the obligation is `stage_between` over every stage. -/
theorem newPoleLiesBetweenPoleAndInput : Obligations.NewPoleLiesBetweenPoleAndInput :=
  fun _ _ shift _ _ hl hc hcur hpole hd hsub => stage_between hl hc shift hcur hpole hd hsub

end Sys2Proof.Machine
end

section
/-! One tick of an enabled core: the seed tick, the overflow of any stage, a constant input (41_apply.md R150 to R153,
R158). -/

namespace Sys2Proof.Machine

/-! ### A stage in the rule's formulas (41_apply.md R142, R144 to R149) -/

section
variable {p : Params} {coef shift : Nat} {cur pole np : Int}

/-- The lag adder of the MUL variant: the wrapped sum of the two terms, where it is not reported (41_apply.md R147). -/
theorem lagValue_eq_ok_iff_of_mul (hv : p.variant = .mul) {d lag : Int} :
    lagValue p coef shift d = .ok lag ↔
      ovf p.w (intTerm p coef d) (fracTerm p coef d) (wrap p.w (intTerm p coef d + fracTerm p coef d)) = false ∧
      lag = wrap p.w (intTerm p coef d + fracTerm p coef d) := by
  simp only [lagValue, hv]
  split <;> simp [*, eq_comm]

theorem stage_eq_ok_iff :
    stage p coef shift cur pole = .ok np ↔
      subCheck p cur pole (wrap p.w (cur - pole)) = false ∧
      ∃ lag, lagValue p coef shift (wrap p.w (cur - pole)) = .ok lag ∧ np = wrap p.w (lag + pole) ∧
        ovf p.w lag pole np = false := by
  refine ⟨stage_ok, ?_⟩
  rintro ⟨hsub, lag, hlag, rfl, hadd⟩
  simp [stage, hsub, hlag, addPole, hadd]

/-- The model's stage passes exactly as the rule's formulas say. -/
theorem stage_eq_ok_iff_stagePasses :
    stage p coef shift cur pole = .ok np ↔ StagePasses p coef shift cur pole np := by
  rw [stage_eq_ok_iff, StagePasses]
  cases hv : p.variant with
  | mul =>
    simp only [lagValue_eq_ok_iff_of_mul hv, and_assoc, exists_and_left, exists_eq_left, fracTerm_cast]
    rfl
  | shift =>
    simp only [lagValue_shift hv, Except.ok.injEq, exists_eq_left']
    rfl

/-- A stage that fails one of the rule's checks does not pass, whatever the new pole. -/
theorem not_stagePasses_of_stageFails (h : StageFails p coef shift cur pole) : ¬ StagePasses p coef shift cur pole np := by
  unfold StageFails at h
  unfold StagePasses
  cases hv : p.variant with
  | mul =>
    simp only [hv] at h ⊢
    rintro ⟨hsub, hlag, rfl, hadd⟩
    simp [hsub, hlag, hadd] at h
  | shift =>
    simp only [hv] at h ⊢
    rintro ⟨hsub, rfl, hadd⟩
    simp [hsub, hadd] at h

theorem stage_of_stageFails (h : StageFails p coef shift cur pole) : ∃ c, stage p coef shift cur pole = .error c := by
  cases hs : stage p coef shift cur pole with
  | error c => exact ⟨c, rfl⟩
  | ok np => exact absurd (stage_eq_ok_iff_stagePasses.1 hs) (not_stagePasses_of_stageFails h)

end

/-! ### The loop (41_apply.md R150, R151) -/

section
variable {p : Params} {coef shift : Nat}

/-- A failing stage after passing stages ends the loop. -/
theorem cascadePoles_error {ps : List Int} {c : Nat → Int} {k : Nat} {pole : Int} {e : StageCheck}
    (hpass : ∀ i, i < k → ∃ q, ps[i]? = some q ∧ stage p coef shift (c i) q = .ok (c (i + 1)))
    (hk : ps[k]? = some pole) (he : stage p coef shift (c k) pole = .error e) :
    cascadePoles p coef shift ps (c 0) = .error e := by
  induction ps generalizing c k with
  | nil => simp at hk
  | cons q rest ih =>
    cases k with
    | zero =>
      obtain rfl : q = pole := by simpa using hk
      simp only [cascadePoles, he]
    | succ k =>
      obtain ⟨q', hq', hstage⟩ := hpass 0 k.succ_pos
      obtain rfl : q = q' := by simpa using hq'
      have hrest : cascadePoles p coef shift rest (c 1) = .error e :=
        ih (c := fun i => c (i + 1)) (fun i hi => hpass (i + 1) (Nat.succ_lt_succ hi)) hk he
      simp only [cascadePoles, hstage, hrest]

/-- A value that every stage turns into itself runs through the loop unchanged. -/
theorem cascadePoles_replicate {v : Int} (h : stage p coef shift v v = .ok v) (n : Nat) :
    cascadePoles p coef shift (List.replicate n v) v = .ok (List.replicate n v, v) := by
  induction n with
  | zero => rfl
  | succ n ih => simp only [List.replicate_succ, cascadePoles, h, ih]

end

theorem cascade_of_error {sc : Int} {s : State} {e : StageCheck}
    (h : cascadePoles s.hw s.coef s.shift (s.poles.take s.n) sc = .error e) : cascade sc s = recover sc s := by
  simp only [cascade, h]

theorem cascade_of_ok {sc : Int} {s : State} {nps : List Int} {out : Int}
    (h : cascadePoles s.hw s.coef s.shift (s.poles.take s.n) sc = .ok (nps, out)) :
    cascade sc s = ({ s with poles := nps ++ s.poles.drop s.n }.setRes (resPattern out)).report .none false := by
  simp only [cascade, h]

/-- A cascade ends by writing `RES`, so what step 1 of APPLY left there is gone. -/
theorem cascade_setRes (sc : Int) (v : Word) (s : State) : cascade sc (s.setRes v) = cascade sc s := by
  cases h : cascadePoles s.hw s.coef s.shift (s.poles.take s.n) sc with
  | error e => rw [cascade_of_error h, cascade_of_error (s := s.setRes v) h]; rfl
  | ok r => rw [cascade_of_ok h, cascade_of_ok (s := s.setRes v) h]; rfl

/-! ### APPLY past step 3 (41_apply.md R153) -/

/-- What step 3 leaves, as the two cases of the rule say it. -/
theorem reconfigure_eq_some {s u : State}
    (hdue : (s.arg1 ≠ s.fc ∨ s.cfgValid = false) → configure s.arg1 s.t s = some u)
    (hkeep : s.arg1 = s.fc → s.cfgValid = true → u = s) : reconfigure s.arg1 s = some u := by
  unfold reconfigure
  split
  · next h => exact hdue ((reconfigureDue_iff _ _).1 h)
  · next h =>
    obtain ⟨hfc, hcfg⟩ := (reconfigureDue_eq_false_iff s.arg1 s).1 (by simpa using h)
    rw [hkeep hfc hcfg]

section
variable {s u : State} (hi : s.inited = true) (he : s.en = true) (hu : reconfigure s.arg1 s = some u)
include hi he hu

theorem exec_apply_seed (hr : u.restart = true) :
    exec .apply s = .next (seedTick (tickInput s) (u.setRes (resPattern (tickInput s)))) := by
  simp [exec, execApply, tickAfterScaling, reconfigure_setRes, hi, he, hu, hr]

theorem exec_apply_cascade (hr : u.restart = false) :
    exec .apply s = .next (cascade (tickInput s) u) := by
  simp [exec, execApply, tickAfterScaling, reconfigure_setRes, cascade_setRes, hi, he, hu, hr]

end

section
variable {req : Word} {s u : State} (h : reconfigure req s = some u)
include h

/-- Step 3 leaves the pole bank and its count as they were. -/
theorem reconfigure_bank : u.poles = s.poles ∧ u.n = s.n := by
  rw [reconfigure_frame h]
  exact ⟨rfl, rfl⟩

/-- Step 3 leaves the request and the tick's input as they were. -/
theorem reconfigure_request : u.hw = s.hw ∧ u.arg1 = s.arg1 ∧ tickInput u = tickInput s := by
  rw [reconfigure_frame h]
  exact ⟨rfl, rfl, rfl⟩

/-- After step 3 the same request finds nothing due. -/
theorem reconfigureDue_of_reconfigure : reconfigureDue req u = false := by
  rw [reconfigureDue_eq_false_iff]
  obtain ⟨hfc, hcfg, rfl⟩ | ⟨-, h⟩ := reconfigure_some h
  · exact ⟨hfc, hcfg⟩
  · obtain ⟨-, c, -, rfl⟩ | ⟨-, k, -, rfl⟩ := configure_some h <;> exact ⟨rfl, rfl⟩

/-- Step 3 leaves a coefficient below `2^F` (10_state.md R40). -/
theorem reconfigure_coef_lt (hl : s.hw.legal = true) (hc : s.coef < 2 ^ s.hw.f) : u.coef < 2 ^ u.hw.f := by
  obtain ⟨-, -, rfl⟩ | ⟨-, h⟩ := reconfigure_some h
  · exact hc
  · obtain ⟨-, c, hder, rfl⟩ | ⟨-, k, -, rfl⟩ := configure_some h
    · exact deriveCoef_lt hl hder
    · exact hc

end

/-! ### The seed tick (41_apply.md R152) -/

/-- Settles O25: the tick is `seedTick`, whose bank is `setActivePoles`. -/
theorem seedTickSeedsEveryActivePole : Obligations.SeedTickSeedsEveryActivePole := by
  intro s s3 hi he hdue hkeep hr
  have hu := reconfigure_eq_some hdue hkeep
  obtain ⟨hpoles, hn⟩ := reconfigure_bank hu
  refine ⟨(setActivePoles (tickInput s) s3).poles, ?exec, ?length, fun k hk hlen => ?active, fun k hk => ?beyond⟩
  case exec =>
    rw [exec_apply_seed hi he hu hr, seedTick, State.report, statWord_seed]
    rfl
  case length => rw [setActivePoles_length, hpoles]
  case active => exact setActivePoles_active _ s3 (hn ▸ hk) (hpoles ▸ hlen)
  case beyond => rw [setActivePoles_beyond _ s3 (hn ▸ hk), hpoles]

/-! ### Overflow recovery (41_apply.md R151) -/

/-- Settles O27: the loop ends at stage `k`, so the tick is `recover`, whose bank is `setActivePoles`. -/
theorem overflowResetsEveryActivePole : Obligations.OverflowResetsEveryActivePole := by
  intro s s3 c k pole hi he hdue hkeep hr hc0 hk hpass hpole hfail
  have hu := reconfigure_eq_some hdue hkeep
  obtain ⟨hpoles, hn⟩ := reconfigure_bank hu
  have hsc : tickInput s = c 0 := hc0.symm
  have hactive : ∀ i, i ≤ k → (s3.poles.take s3.n)[i]? = s3.poles[i]? := fun i hik =>
    List.getElem?_take_of_lt (by omega)
  obtain ⟨e, hstage⟩ := stage_of_stageFails hfail
  have herror : cascadePoles s3.hw s3.coef s3.shift (s3.poles.take s3.n) (c 0) = .error e := by
    refine cascadePoles_error (fun i hik => ?_) ((hactive k le_rfl).trans (hpoles ▸ hpole)) hstage
    obtain ⟨q, hq, hq'⟩ := hpass i hik
    exact ⟨q, (hactive i hik.le).trans hq, stage_eq_ok_iff_stagePasses.2 hq'⟩
  refine ⟨(setActivePoles (c 0) s3).poles, ?exec, ?length, fun i hi hlen => ?active, fun i hi => ?beyond⟩
  case exec =>
    rw [exec_apply_cascade hi he hu hr, hsc, cascade_of_error herror, recover, State.report,
      statWord_overflow]
    rfl
  case length => rw [setActivePoles_length, hpoles]
  case active => exact setActivePoles_active _ s3 (hn ▸ hi) (hpoles ▸ hlen)
  case beyond => rw [setActivePoles_beyond _ s3 (hn ▸ hi), hpoles]

/-! ### A constant input (41_apply.md R158) -/

section
variable {p : Params} (hl : p.legal = true) {v : Int} (hv : InRange p.w v)
include hl hv

/-- A stage that holds its input already is reported under `SAME_SIGN` with a negative input, and never otherwise. -/
theorem subCheck_self_iff : subCheck p v v (wrap p.w (v - v)) = true ↔ p.subOvfRule = .sameSign ∧ v < 0 := by
  have hw := one_le_w_of_legal hl
  cases hrule : p.subOvfRule with
  | sameSign =>
    rw [subCheck_sameSign_iff hw hv hv hrule]
    simp
  | twosComplementSub =>
    rw [subCheck_twosComplementSub_iff hw hv hv hrule, sub_self]
    simp [zero_inRange p.w]

theorem stage_self_reported (coef shift : Nat) (h : p.subOvfRule = .sameSign ∧ v < 0) :
    stage p coef shift v v = .error .subtraction := by
  rw [stage, if_pos ((subCheck_self_iff hl hv).2 h)]

theorem stage_self_held {coef : Nat} (hc : coef < 2 ^ p.f) (shift : Nat) (h : ¬ (p.subOvfRule = .sameSign ∧ v < 0)) :
    stage p coef shift v v = .ok v := by
  have hd : InRange p.w (v - v) := by simpa using zero_inRange p.w
  have hsub := Bool.eq_false_iff.2 (mt (subCheck_self_iff hl hv).1 h)
  rw [wrap_of_inRange (one_le_w_of_legal hl) hd] at hsub
  obtain ⟨np, hnp, hlo, hhi⟩ := stage_between hl hc shift hv hv hd hsub
  rw [min_self] at hlo
  rw [max_self] at hhi
  rw [hnp, le_antisymm hhi hlo]

end

theorem take_eq_replicate {l : List Int} {n : Nat} {v : Int} (h : ∀ k, k < n → l[k]? = some v) :
    l.take n = List.replicate n v := by
  refine List.ext_getElem? fun k => ?_
  by_cases hk : k < n
  · rw [List.getElem?_take_of_lt hk, h k hk, List.getElem?_replicate, if_pos hk]
  · rw [List.getElem?_take_eq_none (by omega), List.getElem?_replicate, if_neg hk]

/-- Writing the active poles with the value they hold changes nothing. -/
theorem setActivePoles_of_held {v : Int} {s : State} (h : s.poles.take s.n = List.replicate s.n v) :
    setActivePoles v s = s := by
  have hmap : (s.poles.take s.n).map (fun _ => v) = s.poles.take s.n := by rw [h, List.map_replicate]
  rw [setActivePoles, hmap, List.take_append_drop]

section
variable {v : Int} {s : State} (hheld : s.poles.take s.n = List.replicate s.n v)
include hheld

theorem recover_of_held : recover v s = { s with restart := true, res := resPattern v, stat := 0x00000030 } := by
  rw [recover, setActivePoles_of_held hheld, State.report, statWord_overflow]
  rfl

theorem seedTick_of_held : seedTick v s = { s with restart := false, stat := 0x00000101 } := by
  rw [seedTick, setActivePoles_of_held hheld, State.report, statWord_seed]

variable (hl : s.hw.legal = true) (hv : InRange s.hw.w v)
include hl hv

/-- A cascade of at least one stage over a held negative input under `SAME_SIGN` recovers. -/
theorem cascade_of_held_reported (hn : 1 ≤ s.n) (h : s.hw.subOvfRule = .sameSign ∧ v < 0) :
    cascade v s = { s with restart := true, res := resPattern v, stat := 0x00000030 } := by
  obtain ⟨m, hm⟩ := Nat.exists_eq_add_one.2 hn
  rw [cascade_of_error (e := .subtraction), recover_of_held hheld]
  rw [hheld, hm, List.replicate_succ, cascadePoles, stage_self_reported hl hv _ _ h]

/-- A cascade over any other held input keeps the poles and answers the input. -/
theorem cascade_of_held (hc : s.coef < 2 ^ s.hw.f) (h : ¬ (s.hw.subOvfRule = .sameSign ∧ v < 0)) :
    cascade v s = { s with res := resPattern v, stat := 0x00000001 } := by
  have hloop := cascadePoles_replicate (stage_self_held hl hv hc s.shift h) s.n
  rw [← hheld] at hloop
  rw [cascade_of_ok hloop, List.take_append_drop, State.report, statWord_none]
  rfl

end

/-- The seed tick over a bank that holds the input, where step 3 is not due. -/
theorem exec_apply_seed_of_held {s : State} (hi : s.inited = true) (he : s.en = true)
    (hdue : reconfigureDue s.arg1 s = false) (hr : s.restart = true)
    (hheld : s.poles.take s.n = List.replicate s.n (tickInput s)) :
    exec .apply s = .next { s with restart := false, res := resPattern (tickInput s), stat := 0x00000101 } := by
  rw [exec_apply_seed hi he (if_neg (by simp [hdue])) hr,
    seedTick_of_held (s := s.setRes (resPattern (tickInput s))) hheld]
  rfl

/-- Settles O38: the bank holds the input, so recovery and seeding leave it; after the recovery nothing is due and
`RESTART` is 1. -/
theorem constantInputIsHeldOrAlternates : Obligations.ConstantInputIsHeldOrAlternates := by
  intro s s3 hinv hi he hdue hkeep hr hconst
  have hu := reconfigure_eq_some hdue hkeep
  obtain ⟨hpoles, hn⟩ := reconfigure_bank hu
  obtain ⟨hhw, harg, hinput⟩ := reconfigure_request hu
  obtain ⟨hi3, he3, -⟩ := reconfigure_flags hu
  have hheld : s3.poles.take s3.n = List.replicate s3.n (tickInput s) := by
    rw [hpoles, hn]
    exact take_eq_replicate hconst
  have hdue3 : reconfigureDue s3.arg1 s3 = false := harg ▸ reconfigureDue_of_reconfigure hu
  have hl : s3.hw.legal = true := hhw ▸ hinv.legal
  have hv : InRange s3.hw.w (tickInput s) := hhw ▸ wrap_inRange (one_le_w_of_legal hinv.legal) _
  constructor
  · intro hneg
    constructor
    · rw [exec_apply_cascade hi he hu hr, cascade_of_held_reported hheld hl hv
        (hn ▸ hinv.countInRange.1) (hhw ▸ hneg)]
      rfl
    · have htick := exec_apply_seed_of_held
        (s := { s3 with restart := true, res := resPattern (tickInput s), stat := 0x00000030 })
        (hi3.trans hi) (he3.trans he) hdue3 rfl (hinput ▸ hheld)
      refine htick.trans ?_
      rw [hr, show tickInput { s3 with restart := true, res := _, stat := _ } = tickInput s from hinput]
      rfl
  · intro hok
    rw [exec_apply_cascade hi he hu hr, cascade_of_held hheld hl hv
      (reconfigure_coef_lt hu hinv.legal hinv.coefInRange) (hhw ▸ hok)]
    rfl

end Sys2Proof.Machine
end

section
/-! The poles from `N` on: no command writes or reads them (41_apply.md R159). -/

namespace Sys2Proof.Machine

/-! ### The commands other than APPLY touch no pole -/

theorem configure_withPoles (fc t : Word) (s : State) (ps : List Int) :
    configure fc t { s with poles := ps } = (configure fc t s).map fun u => { u with poles := ps } := by
  cases hv : s.hw.variant with
  | mul =>
    rw [configure_of_mul fc t hv, configure_of_mul (s := { s with poles := ps }) fc t hv, Option.map_map]
    rfl
  | shift =>
    rw [configure_of_shift fc t hv, configure_of_shift (s := { s with poles := ps }) fc t hv, Option.map_map]
    rfl

theorem initConfigured_withPoles (s : State) (ps : List Int) :
    initConfigured { s with poles := ps } = { initConfigured s with poles := ps } := by
  unfold initConfigured
  cases s.hw.variant with
  | mul => rfl
  | shift => cases deriveShift s.hw (u32 s.fc) (u32 s.t) <;> rfl

/-- A command other than APPLY does the same over any other bank, and leaves that bank. -/
theorem exec_withPoles_of_ne_apply {i : Instr} {s t : State} (h : exec i s = .next t) (hi : i ≠ .apply) (ps : List Int) :
    exec i { s with poles := ps } = .next { t with poles := ps } := by
  cases i with
  | init e =>
    obtain ⟨hr, rfl⟩ | ⟨hr, rfl⟩ := execInit_next h
    · exact if_pos hr
    · refine (if_neg (ne_true_of_eq_false hr)).trans (congrArg Host.Outcome.next ?_)
      exact congrArg (State.report · .none false) (initConfigured_withPoles (initRegisters e s) ps)
  | config =>
    have hconf := configure_withPoles s.arg0 s.arg1 s ps
    obtain ⟨-, hrejected, haccepted⟩ := configRunsConfigure { s with poles := ps }
    obtain ⟨hn, rfl⟩ | ⟨hn, hc, rfl⟩ | ⟨u, hn, hc, rfl⟩ := execConfig_next h
    · exact if_pos hn
    · exact hrejected hn (hconf.trans (by rw [hc]; rfl))
    · exact haccepted _ hn (hconf.trans (by rw [hc]; rfl))
  | apply => exact absurd rfl hi
  | restart =>
    obtain ⟨hn, rfl⟩ | ⟨hn, rfl⟩ := execRestart_next h
    · exact if_pos hn
    · exact if_neg (ne_false_of_eq_true hn)
  | seten e =>
    obtain ⟨hn, rfl⟩ | ⟨hn, rfl, he, rfl⟩ | ⟨hn, rfl, rfl⟩ | ⟨hn, rfl, he, rfl⟩ := execSeten_next h
    · exact if_pos hn
    · exact (if_neg (ne_false_of_eq_true hn)).trans (if_pos ⟨rfl, he⟩)
    · exact (if_neg (ne_false_of_eq_true hn)).trans ((if_neg (by simp)).trans (if_pos rfl))
    · exact (if_neg (ne_false_of_eq_true hn)).trans ((if_neg (by simp [he])).trans (if_neg (by simp)))
  | rdadc =>
    obtain ⟨hn, rfl⟩ | ⟨hn, rfl⟩ := execRdadc_next h
    · exact if_pos hn
    · exact if_neg (ne_false_of_eq_true hn)
  | rdwidth =>
    obtain rfl := Host.Outcome.next.inj h
    rfl

/-- With its own bank for the other, the command is seen to keep it. -/
theorem exec_poles_of_ne_apply {i : Instr} {s t : State} (h : exec i s = .next t) (hi : i ≠ .apply) :
    t.poles = s.poles := by
  have hsame : exec i s = .next { t with poles := s.poles } := exec_withPoles_of_ne_apply h hi s.poles
  have hpoles := congrArg State.poles (Host.Outcome.next.inj (h.symm.trans hsame))
  exact hpoles

/-! ### APPLY touches the active poles only -/

/-- The state with other poles from `N` on. -/
def State.withTail (s : State) (tail : List Int) : State := { s with poles := s.poles.take s.n ++ tail }

theorem reconfigure_withPoles (req : Word) (s : State) (ps : List Int) :
    reconfigure req { s with poles := ps } = (reconfigure req s).map fun u => { u with poles := ps } := by
  have hdue : reconfigureDue req { s with poles := ps } = reconfigureDue req s := rfl
  rw [reconfigure, reconfigure, hdue]
  split
  · exact configure_withPoles req s.t s ps
  · rfl

theorem reconfigure_count_le {req : Word} {s u : State} (h : reconfigure req s = some u) (hn : s.n ≤ s.poles.length) :
    u.n ≤ u.poles.length := by
  obtain ⟨hpoles, hcount⟩ := reconfigure_bank h
  rwa [hpoles, hcount]

theorem reconfigure_withTail {req : Word} {s u : State} (h : reconfigure req s = some u) (tail : List Int) :
    reconfigure req (s.withTail tail) = some (u.withTail tail) := by
  obtain ⟨hpoles, hn⟩ := reconfigure_bank h
  rw [State.withTail, reconfigure_withPoles, h, Option.map_some, State.withTail, hpoles, hn]

theorem reconfigure_withTail_eq_none {req : Word} {s : State} (h : reconfigure req s = none) (tail : List Int) :
    reconfigure req (s.withTail tail) = none := by
  rw [State.withTail, reconfigure_withPoles, h, Option.map_none]

section
variable {s : State} (hn : s.n ≤ s.poles.length) (tail : List Int)
include hn

theorem take_withTail : (s.withTail tail).poles.take s.n = s.poles.take s.n :=
  List.take_left' (List.length_take_of_le hn)

theorem drop_withTail : (s.withTail tail).poles.drop s.n = tail :=
  List.drop_left' (List.length_take_of_le hn)

/-- A bank with new active poles takes the other tail as it took the old one. -/
theorem withTail_of_writes {nps : List Int} (h : nps.length = (s.poles.take s.n).length) :
    State.withTail { s with poles := nps ++ s.poles.drop s.n } tail =
      { s with poles := nps ++ (s.withTail tail).poles.drop s.n } := by
  rw [drop_withTail hn, State.withTail, List.take_left' (h.trans (List.length_take_of_le hn))]

theorem setActivePoles_withTail (v : Int) :
    setActivePoles v (s.withTail tail) = (setActivePoles v s).withTail tail := by
  have htake := take_withTail hn tail
  refine Eq.trans ?_ (withTail_of_writes hn tail (List.length_map _)).symm
  rw [← htake]
  rfl

theorem seedTick_withTail (v : Int) : seedTick v (s.withTail tail) = (seedTick v s).withTail tail := by
  rw [seedTick, setActivePoles_withTail hn]
  rfl

theorem cascade_withTail (v : Int) : cascade v (s.withTail tail) = (cascade v s).withTail tail := by
  have htake := take_withTail hn tail
  cases h : cascadePoles s.hw s.coef s.shift (s.poles.take s.n) v with
  | error e =>
    rw [cascade_of_error h, cascade_of_error (s := s.withTail tail) (htake.symm ▸ h), recover,
      setActivePoles_withTail hn]
    rfl
  | ok r =>
    rw [cascade_of_ok h, cascade_of_ok (s := s.withTail tail) (htake.symm ▸ h)]
    exact congrArg (fun u : State => (u.setRes (resPattern r.2)).report .none false)
      (withTail_of_writes hn tail (cascadePoles_length h)).symm

end

/-! ### APPLY that does not pass step 3 (41_apply.md R153) -/

section
variable {s : State}

theorem exec_apply_of_not_inited (hi : s.inited = false) :
    exec .apply s = .next ((s.setRes (resPattern (tickInput s))).report .notInit false) := by
  simp [exec, execApply, tickAfterScaling, hi]

theorem exec_apply_of_disabled (hi : s.inited = true) (he : s.en = false) :
    exec .apply s = .next ((s.setRes (resPattern (tickInput s))).report .disabled false) := by
  simp [exec, execApply, tickAfterScaling, hi, he]

theorem exec_apply_of_rejected (hi : s.inited = true) (he : s.en = true) (hr : reconfigure s.arg1 s = none) :
    exec .apply s = .next ((s.setRes (resPattern (tickInput s))).report .configRejected false) := by
  simp [exec, execApply, tickAfterScaling, reconfigure_setRes, hi, he, hr]

end

theorem exec_apply_withTail {s t : State} (h : exec .apply s = .next t) (hn : s.n ≤ s.poles.length) (tail : List Int) :
    exec .apply (s.withTail tail) = .next (t.withTail tail) := by
  obtain ⟨hi, rfl⟩ | ⟨hi, he, rfl⟩ | ⟨hi, he, hr, rfl⟩ | ⟨u, hi, he, hu, hres, rfl⟩ | ⟨u, hi, he, hu, hres, rfl⟩ :=
    execApply_next h
  · exact exec_apply_of_not_inited (s := s.withTail tail) hi
  · exact exec_apply_of_disabled (s := s.withTail tail) hi he
  · exact exec_apply_of_rejected (s := s.withTail tail) hi he (reconfigure_withTail_eq_none hr tail)
  · have hle := reconfigure_count_le hu hn
    have hseed := exec_apply_seed (s := s.withTail tail) hi he (reconfigure_withTail hu tail) hres
    exact hseed.trans (congrArg Host.Outcome.next
      (seedTick_withTail (s := u.setRes (resPattern (tickInput s))) hle tail (tickInput s)))
  · have hle := reconfigure_count_le hu hn
    have hcascade := exec_apply_cascade (s := s.withTail tail) hi he (reconfigure_withTail hu tail) hres
    rw [cascade_setRes]
    exact hcascade.trans (congrArg Host.Outcome.next (cascade_withTail hle tail (tickInput s)))

/-- A cascade keeps the count and the poles from it on. -/
theorem cascade_bank (v : Int) {s : State} (hn : s.n ≤ s.poles.length) :
    (cascade v s).n = s.n ∧ ∀ k, s.n ≤ k → (cascade v s).poles[k]? = s.poles[k]? := by
  obtain ⟨e, -, hc⟩ | ⟨nps, out, hok, hc⟩ := cascade_cases v s <;> rw [hc]
  · exact ⟨rfl, fun k hk => setActivePoles_beyond v s hk⟩
  · have hlen : nps.length = s.n := (cascadePoles_length hok).trans (List.length_take_of_le hn)
    refine ⟨rfl, fun k hk => ?_⟩
    rw [List.getElem?_append_right (by omega), List.getElem?_drop, hlen, Nat.add_sub_cancel' hk]

/-- APPLY keeps the count and the poles from it on. -/
theorem exec_apply_bank {s t : State} (h : exec .apply s = .next t) (hn : s.n ≤ s.poles.length) :
    t.n = s.n ∧ ∀ k, s.n ≤ k → t.poles[k]? = s.poles[k]? := by
  obtain ⟨-, rfl⟩ | ⟨-, -, rfl⟩ | ⟨-, -, -, rfl⟩ | ⟨u, -, -, hu, -, rfl⟩ | ⟨u, -, -, hu, -, rfl⟩ := execApply_next h
  · exact ⟨rfl, fun _ _ => rfl⟩
  · exact ⟨rfl, fun _ _ => rfl⟩
  · exact ⟨rfl, fun _ _ => rfl⟩
  · obtain ⟨hpoles, hcount⟩ := reconfigure_bank hu
    rw [← hpoles, ← hcount]
    exact ⟨rfl, fun k hk => setActivePoles_beyond _ u hk⟩
  · have hle := reconfigure_count_le hu hn
    obtain ⟨hpoles, hcount⟩ := reconfigure_bank hu
    rw [cascade_setRes, ← hpoles, ← hcount]
    exact cascade_bank (tickInput s) hle

/-- Settles O49: the other commands leave whatever bank they find; APPLY rewrites the active poles from the active poles. -/
theorem polesBeyondTheCountAreUntouched : Obligations.PolesBeyondTheCountAreUntouched := by
  intro i s t tail h hn
  by_cases hi : i = .apply
  · subst hi
    obtain ⟨hcount, hbeyond⟩ := exec_apply_bank h hn
    refine ⟨hbeyond, ?_⟩
    rw [show t.poles.take s.n = t.poles.take t.n by rw [hcount]]
    exact exec_apply_withTail h hn tail
  · rw [exec_poles_of_ne_apply h hi]
    exact ⟨fun _ _ => rfl, exec_withPoles_of_ne_apply h hi _⟩

end Sys2Proof.Machine
end

section
/-! The control commands: what each writes before and after INIT (42_control.md R190 to R193). -/

namespace Sys2Proof.Machine

/-! ### The two reports of the family (60_exceptions.md R221) -/

theorem report_notInit (s : State) : s.report .notInit false = { s with stat := 0x00000050 } := by
  rw [State.report, statWord_notInit]

theorem report_success (s : State) : s.report .none false = { s with stat := 0x00000001 } := by
  rw [State.report, statWord_none]

/-! ### Before INIT -/

section
variable {s : State} (hi : s.inited = false)
include hi

theorem exec_restart_of_not_inited : exec .restart s = .next { s with stat := 0x00000050 } := by
  rw [exec, execRestart, if_pos hi, report_notInit]

theorem exec_seten_of_not_inited (e : Bool) : exec (.seten e) s = .next { s with stat := 0x00000050 } := by
  rw [exec, execSeten, if_pos hi, report_notInit]

theorem exec_rdadc_of_not_inited : exec .rdadc s = .next { s with stat := 0x00000050 } := by
  rw [exec, execRdadc, if_pos hi, report_notInit]

end

/-! ### After INIT -/

section
variable {s : State} (hi : s.inited = true)
include hi

theorem exec_restart_of_inited : exec .restart s = .next { s with restart := true, stat := 0x00000001 } := by
  rw [exec, execRestart, if_neg (by simp [hi]), report_success]

/-- SETEN after INIT, by the two decisions it takes: whether it enables a disabled core, and else whether it disables. -/
theorem exec_seten_of_inited (e : Bool) :
    exec (.seten e) s =
      if e = true ∧ s.en = false then .next { s with en := true, restart := true, stat := 0x00000001 }
      else if e = false then .next { s with en := false, stat := 0x00000001 }
      else .next { s with stat := 0x00000001 } := by
  rw [exec, execSeten, if_neg (by simp [hi]), report_success, report_success, report_success]

theorem exec_rdadc_of_inited : exec .rdadc s = .next { s with res := s.adcBits, stat := 0x00000001 } := by
  rw [exec, execRdadc, if_neg (by simp [hi]), report_success, State.setRes]

end

/-! ### In every state -/

theorem exec_rdwidth (s : State) :
    exec .rdwidth s = .next { s with res := BitVec.ofNat 32 s.hw.w, stat := 0x00000001 } := by
  rw [exec, execRdwidth, report_success, State.setRes]

/-! ### The obligations -/

/-- Settles O39: the two answers of RESTART, by `INITED`. -/
theorem restartSetsTheFlag : Obligations.RestartSetsTheFlag :=
  fun _ => ⟨exec_restart_of_not_inited, exec_restart_of_inited⟩

/-- Settles O40: SETEN before INIT, and after it each case by the decisions that lead there. -/
theorem setenSetsTheEnablementFlag : Obligations.SetenSetsTheEnablementFlag := by
  intro s
  refine ⟨fun e hi => exec_seten_of_not_inited hi e, fun hi he => ?enables, fun hi he => ?enabled, fun hi => ?disables⟩
  case enables => rw [exec_seten_of_inited hi, if_pos ⟨rfl, he⟩]
  case enabled => rw [exec_seten_of_inited hi, if_neg (by simp [he]), if_neg (by decide)]
  case disables => rw [exec_seten_of_inited hi, if_neg (by simp), if_pos rfl]

/-- Settles O41: the two answers of RDADC, by `INITED`. -/
theorem rdadcReturnsTheAdcResolution : Obligations.RdadcReturnsTheAdcResolution :=
  fun _ => ⟨exec_rdadc_of_not_inited, exec_rdadc_of_inited⟩

/-- Settles O42: RDWIDTH looks at no flag, so one equation covers every state. -/
theorem rdwidthReturnsTheRegisterWidth : Obligations.RdwidthReturnsTheRegisterWidth :=
  ⟨exec_rdwidth, rfl⟩

end Sys2Proof.Machine
end

section
/-! The commands before INIT (60_exceptions.md R223). -/

namespace Sys2Proof.Machine

/-- APPLY before INIT, with its two writes written out: step 1 of R153 stores the scaled input, then the report. -/
theorem exec_apply_writes_of_not_inited {s : State} (hi : s.inited = false) :
    exec .apply s = .next { s with res := resPattern (scaleInput s.hw s.arg0.toInt), stat := 0x00000050 } := by
  rw [exec_apply_of_not_inited hi, report_notInit, State.setRes, tickInput]

/-- An accepted INIT overwrites `INITED` and reads it nowhere, so its old value `b` does not matter. -/
theorem exec_init_withInited_of_accepts (e b : Bool) {s : State} (h : initRejects s = false) :
    exec (.init e) { s with inited := b } = exec (.init e) s := by
  have hb : initRejects { s with inited := b } = false := h
  have hregs : initRegisters e { s with inited := b } = initRegisters e s := rfl
  rw [exec, exec, execInit_of_accepts e hb, execInit_of_accepts e h, hregs]

/-- Settles O43: the equation of each command before INIT; INIT by its argument check. -/
theorem commandsBeforeInitReportNotInit : Obligations.CommandsBeforeInitReportNotInit := by
  intro s hi
  obtain ⟨hconfig, -, -⟩ := configRunsConfigure s
  refine ⟨hconfig hi, exec_apply_writes_of_not_inited hi, exec_restart_of_not_inited hi, exec_seten_of_not_inited hi,
    exec_rdadc_of_not_inited hi, exec_rdwidth s, fun e => ?init⟩
  split
  next hrejected => exact execInit_of_rejects e hrejected
  next haccepted => exact (exec_init_withInited_of_accepts e true (Bool.eq_false_iff.2 haccepted)).symm

end Sys2Proof.Machine
end

section
/-! The reset values (70_reset_and_hazards.md R251). -/

namespace Sys2Proof.Machine

/-- Offset 0x20 of the window is `STATE` (20_memory.md R51). -/
theorem windowRead_state (s : State) : windowRead s 0x20 = stateWord s := rfl

/-- A read of `STATE` right after reset, by the variant of the build. -/
theorem windowRead_state_resetWith (p : Params) :
    windowRead (State.resetWith p) 0x20 = if p.variant = .shift then 0x00000014 else 0x00000004 :=
  (windowRead_state _).trans (stateWord_resetWith p)

/-- Settles O1: the registers hold their reset values by definition, `STATE` reads by the variant, and `State.reset` is
the reset state of the legal default parameters. -/
theorem resetGivesTheSpecifiedValues : Obligations.ResetGivesTheSpecifiedValues := by
  intro p
  refine ⟨rfl, rfl, rfl, rfl, rfl, rfl, rfl, rfl, rfl, rfl, rfl, fun hmul => ?mul, fun hshift => ?shift, ?default⟩
  case mul => rw [windowRead_state_resetWith, hmul, if_neg (by decide)]
  case shift => rw [windowRead_state_resetWith, if_pos hshift]
  case default => exact ⟨Params.default, Params.default_legal, rfl⟩

end Sys2Proof.Machine
end

section
/-! The encoding as a bijection, the spec's example words, and the byte lanes of a word (30_encoding.md R70 to R74,
20_memory.md R53). -/

namespace Sys2Proof

theorem decodeTableWord_eq_some_iff {nbits w : Nat} {i : Instr} :
    decodeTableWord nbits w = some i ↔ (nbits ≤ 32 ∧ w < 2 ^ nbits) ∧ decode (BitVec.ofNat 32 w) = .ok i := by
  unfold decodeTableWord
  split
  · next hfits =>
    rw [and_iff_right hfits]
    split <;> simp [*]
  · next hfits => simp [hfits]

/-- Settles O16: `decode_eq_ok_iff` for all words, and each command's 32-bit word read as a table word. -/
theorem decodeAndEncodeAgree : Obligations.DecodeAndEncodeAgree := by
  refine ⟨fun w i => decode_eq_ok_iff, fun i => ⟨by cases i <;> rfl, ?_⟩⟩
  rw [decodeTableWord_eq_some_iff, BitVec.ofNat_toNat, BitVec.setWidth_eq]
  exact ⟨⟨le_rfl, (encode i).isLt⟩, decode_encode i⟩

/-- Settles O13: each word is its command's encoding. -/
theorem exampleWordsDecode : Obligations.ExampleWordsDecode :=
  ⟨decode_encode (.init true), decode_encode (.init false), decode_encode .config, decode_encode .apply,
    decode_encode .restart, decode_encode (.seten true), decode_encode (.seten false), decode_encode .rdadc,
    decode_encode .rdwidth⟩

end Sys2Proof

namespace Sys2Proof.Machine

theorem byteLane_toNat (v : Word) (k : Nat) : (byteLane v k).toNat = v.toNat / 2 ^ (8 * k) % 256 := by
  rw [byteLane, BitVec.extractLsb'_toNat, Nat.shiftRight_eq_div_pow]

/-- Settles O12: the lane's bits by their index, the sum as the base-256 digits of a number below `2^32`. -/
theorem byteLanesMakeUpTheRegister : Obligations.ByteLanesMakeUpTheRegister := by
  refine fun v => ⟨fun k j _ hj => ?bits, ?sum⟩
  case bits => rw [byteLane, BitVec.getLsbD_extractLsb', decide_eq_true hj, Bool.true_and]
  case sum =>
    have hlt := v.isLt
    simp only [byteLane_toNat, Nat.mul_zero, pow_zero, Nat.div_one, Nat.mul_one, Nat.reduceMul, Nat.reducePow] at hlt ⊢
    omega

end Sys2Proof.Machine
end

section
/-! The frame of every command: which registers it may write, as an equation of the state after it (10_state.md R35, R36,
95_test_vectors.md section 4). -/

namespace Sys2Proof.Machine

/-! ### The shared operations -/

/-- `Configure` writes configuration registers and `RESTART` only (40_configure.md R105). -/
theorem configure_frame {fc t : Word} {s u : State} (h : configure fc t s = some u) :
    u = { s with fc := u.fc, t := u.t, coef := u.coef, shift := u.shift, cfgValid := u.cfgValid, restart := u.restart } := by
  obtain ⟨-, c, -, rfl⟩ | ⟨-, k, -, rfl⟩ := configure_some h <;> rfl

theorem initConfigured_frame (s : State) :
    initConfigured s = { s with shift := (initConfigured s).shift, cfgValid := (initConfigured s).cfgValid } := by
  unfold initConfigured
  split
  · rfl
  · split <;> rfl

/-- A cascade, passed or recovered, writes poles, `RESTART`, `RES` and `STAT` only. -/
theorem cascade_frame (sc : Int) (s : State) :
    cascade sc s = { s with
      poles := (cascade sc s).poles, restart := (cascade sc s).restart, res := (cascade sc s).res,
      stat := (cascade sc s).stat } := by
  obtain ⟨-, -, h⟩ | ⟨_, _, -, h⟩ := cascade_cases sc s
  · rw [h]
    rfl
  · rw [h]

/-- The new poles and the poles from `N` on fill the bank. -/
theorem cascadePoles_append_drop_length {p : Params} {coef shift n : Nat} {ps nps : List Int} {cur out : Int}
    (h : cascadePoles p coef shift (ps.take n) cur = .ok (nps, out)) : (nps ++ ps.drop n).length = ps.length := by
  rw [List.length_append, cascadePoles_length h, ← List.length_append, List.take_append_drop]

/-- A cascade, passed or recovered, keeps the size of the bank. -/
theorem cascade_length (sc : Int) (s : State) : (cascade sc s).poles.length = s.poles.length := by
  obtain ⟨-, -, h⟩ | ⟨nps, out, hok, h⟩ := cascade_cases sc s <;> rw [h]
  · exact setActivePoles_length sc s
  · exact cascadePoles_append_drop_length hok

/-! ### The commands -/

section
variable {s t : State}

theorem execInit_frame {e : Bool} (h : execInit e s = .next t) :
    t = { s with
      fc := t.fc, t := t.t, coef := t.coef, shift := t.shift, adcBits := t.adcBits, n := t.n, en := t.en,
      restart := t.restart, cfgValid := t.cfgValid, inited := t.inited, stat := t.stat } := by
  obtain ⟨-, rfl⟩ | ⟨-, rfl⟩ := execInit_next h
  · rfl
  · rw [initConfigured_frame]
    rfl

theorem execConfig_frame (h : execConfig s = .next t) :
    t = { s with
      fc := t.fc, t := t.t, coef := t.coef, shift := t.shift, restart := t.restart, cfgValid := t.cfgValid,
      stat := t.stat } := by
  obtain ⟨-, rfl⟩ | ⟨-, -, rfl⟩ | ⟨u, -, hu, rfl⟩ := execConfig_next h
  · rfl
  · rfl
  · rw [configure_frame hu]
    rfl

theorem execApply_frame (h : execApply s = .next t) :
    t = { s with
      poles := t.poles, fc := t.fc, t := t.t, coef := t.coef, shift := t.shift, restart := t.restart,
      cfgValid := t.cfgValid, res := t.res, stat := t.stat } := by
  obtain ⟨-, rfl⟩ | ⟨-, -, rfl⟩ | ⟨-, -, -, rfl⟩ | ⟨u, -, -, hu, -, rfl⟩ | ⟨u, -, -, hu, -, rfl⟩ := execApply_next h
  · rfl
  · rfl
  · rfl
  · rw [reconfigure_frame hu]
    rfl
  · rw [cascade_frame, reconfigure_frame hu]
    rfl

theorem execRestart_frame (h : execRestart s = .next t) : t = { s with restart := t.restart, stat := t.stat } := by
  obtain ⟨-, rfl⟩ | ⟨-, rfl⟩ := execRestart_next h <;> rfl

theorem execSeten_frame {e : Bool} (h : execSeten e s = .next t) :
    t = { s with en := t.en, restart := t.restart, stat := t.stat } := by
  obtain ⟨-, rfl⟩ | ⟨-, -, -, rfl⟩ | ⟨-, -, rfl⟩ | ⟨-, -, -, rfl⟩ := execSeten_next h <;> rfl

theorem execRdadc_frame (h : execRdadc s = .next t) : t = { s with res := t.res, stat := t.stat } := by
  obtain ⟨-, rfl⟩ | ⟨-, rfl⟩ := execRdadc_next h <;> rfl

theorem execRdwidth_frame (h : execRdwidth s = .next t) : t = { s with res := t.res, stat := t.stat } := by
  obtain rfl := Host.Outcome.next.inj h
  rfl

/-- APPLY keeps the size of the bank (10_state.md R22). -/
theorem execApply_length (h : execApply s = .next t) : t.poles.length = s.poles.length := by
  obtain ⟨-, rfl⟩ | ⟨-, -, rfl⟩ | ⟨-, -, -, rfl⟩ | ⟨u, -, -, hu, -, rfl⟩ | ⟨u, -, -, hu, -, rfl⟩ := execApply_next h
  · rfl
  · rfl
  · rfl
  · exact (setActivePoles_length _ _).trans (congrArg List.length (reconfigure_bank hu).1)
  · exact (cascade_length _ _).trans (congrArg List.length (reconfigure_bank hu).1)

end

/-- Settles O45: each command's frame leaves out the registers the obligation says it keeps. -/
theorem commandsWriteOnlyTheirRegisters : Obligations.CommandsWriteOnlyTheirRegisters := by
  intro i s t h
  cases i with
  | init e => rw [execInit_frame h]; simp
  | config => rw [execConfig_frame h]; simp
  | apply => rw [execApply_frame h]; simp
  | restart => rw [execRestart_frame h]; simp
  | seten e => rw [execSeten_frame h]; simp
  | rdadc => rw [execRdadc_frame h]; simp
  | rdwidth => rw [execRdwidth_frame h]; simp

/-- Settles O28: APPLY answers in every state, and keeps what its frame says. -/
theorem everyTickCompletes : Obligations.EveryTickCompletes := by
  intro s
  obtain ⟨t, h⟩ := exec_answers .apply s
  have hlength := execApply_length h
  refine ⟨t, h, ?_⟩
  rw [execApply_frame h]
  exact ⟨rfl, rfl, rfl, rfl, rfl, rfl, rfl, rfl, rfl, rfl, hlength, rfl, rfl⟩

end Sys2Proof.Machine
end

section
/-! What a step can do, said once, and what follows for a whole run: the idle step, the reset input, an access outside the
window, a fetched word, and a run that never stops (20_memory.md R50 to R60, 60_exceptions.md R229, R234). -/

namespace Sys2Proof.Machine

/-! ### The effect of one event, case by case -/

/-- An event that answers is the reset input, a read, a write of a register other than `CMD`, or a write of `CMD` that runs a
command or reports an illegal word. -/
theorem performEvent_next {ev : HostEvent} {s t : State} (h : performEvent ev s = .next t) :
    (∃ x, ev = .reset x ∧ t = assertReset s) ∨
    (∃ agent off, ev = .access agent (.read (s.hw.base + off) 4) ∧ t = { s with resp := .data (windowRead s off) }) ∨
    (∃ agent off v, ev = .access agent (.write (s.hw.base + off) 4 v) ∧ t = windowWrite off v { s with resp := .ack }) ∨
    (∃ agent v i, ev = .access agent (.write s.hw.base 4 v) ∧ decode v = .ok i ∧ exec i { s with resp := .ack } = .next t) ∨
    (∃ agent v r, ev = .access agent (.write s.hw.base 4 v) ∧ decode v = .error r ∧
      t = State.report { s with resp := .ack } .illegal false) := by
  match ev with
  | .reset x => exact .inl ⟨x, rfl, (Host.Outcome.next.inj h).symm⟩
  | .access agent (.read addr n) =>
    simp only [performEvent, performOp] at h
    split at h
    next off hplace =>
      obtain ⟨rfl, rfl, -, -⟩ := locate_eq_reg hplace
      exact .inr (.inl ⟨agent, off, rfl, (Host.Outcome.next.inj h).symm⟩)
    all_goals cases h
  | .access agent (.write addr n v) =>
    simp only [performEvent, performOp] at h
    split at h
    next off hplace =>
      obtain ⟨rfl, rfl, -, -⟩ := locate_eq_reg hplace
      by_cases hoff : off = 0
      · subst hoff
        rw [performWrite_zero] at h
        cases hv : decode v with
        | ok i => exact .inr (.inr (.inr (.inl ⟨agent, v, i, rfl, hv, runCommand_of_decode _ hv ▸ h⟩)))
        | error r =>
          rw [runCommand_of_decode_error _ hv] at h
          exact .inr (.inr (.inr (.inr ⟨agent, v, r, rfl, hv, (Host.Outcome.next.inj h).symm⟩)))
      · rw [performWrite_of_ne_zero v s hoff] at h
        exact .inr (.inr (.inl ⟨agent, off, v, rfl, (Host.Outcome.next.inj h).symm⟩))
    all_goals cases h

/-- No command writes a parameter or the host's program. -/
theorem exec_program {i : Instr} {s t : State} (h : exec i s = .next t) : t.hw = s.hw ∧ t.bus = s.bus := by
  obtain ⟨hhw, -, -, -, -, -, hbus, -⟩ := commandsWriteOnlyTheirRegisters i s t h
  exact ⟨hhw, hbus⟩

theorem windowWrite_program (off : Nat) (v : Word) (s : State) :
    (windowWrite off v s).hw = s.hw ∧ (windowWrite off v s).bus = s.bus := by
  rw [windowWrite_eq]
  exact ⟨rfl, rfl⟩

/-- No event writes a parameter or the rest of the host's program. -/
theorem performEvent_program {ev : HostEvent} {s t : State} (h : performEvent ev s = .next t) :
    t.hw = s.hw ∧ t.bus = s.bus := by
  obtain ⟨x, -, rfl⟩ | ⟨agent, off, -, rfl⟩ | ⟨agent, off, v, -, rfl⟩ | ⟨agent, v, i, -, -, hexec⟩ |
    ⟨agent, v, r, -, -, rfl⟩ := performEvent_next h
  · exact ⟨rfl, rfl⟩
  · exact ⟨rfl, rfl⟩
  · exact windowWrite_program off v _
  · obtain ⟨hhw, hbus⟩ := exec_program hexec
    exact ⟨hhw, hbus⟩
  · exact ⟨rfl, rfl⟩

/-! ### The idle step and the reset input -/

/-- Settles O5: the step of a program with nothing pending, which has one host. -/
theorem idleCoreHoldsItsState : Obligations.IdleCoreHoldsItsState := by
  intro s hl hb
  unfold step performNext
  rw [if_neg (by simp [hl]), hb]
  rfl

/-- The reset input leaves the reset state of the parameters, whatever the core held (70_reset_and_hazards.md R250). -/
theorem step_reset {s : State} {x : Option HostOp} {rest : List HostEvent} (hl : s.hw.legal = true)
    (ho : oneHost rest = true) (hb : s.bus = .reset x :: rest) :
    step s = .next { State.resetWith s.hw with bus := rest } := by
  have honly : oneHost s.bus = true := by
    rw [hb]
    exact ho
  rw [step_cons hl honly hb]
  rfl

/-- Settles O2: the state after the step is built from the parameters and the rest of the program only. -/
theorem resetInputForgetsEverything : Obligations.ResetInputForgetsEverything := by
  intro s u x y rest hl ho hb
  have hstep := step_reset hl ho hb
  refine ⟨⟨_, hstep, rfl, rfl, rfl, rfl, rfl, rfl, rfl, rfl, rfl, rfl, rfl, rfl, rfl, windowRead_state_resetWith s.hw⟩, ?_⟩
  intro hhw hbu
  rw [hstep, step_reset (hhw ▸ hl) ho hbu, hhw]

/-! ### An access outside the window (20_memory.md R50) -/

/-- Settles O7: the step is the access, and the access does not start in the window. -/
theorem accessOutsideTheWindowIsRefused : Obligations.AccessOutsideTheWindowIsRefused := by
  intro s agent addr n v rest hl ho houtside
  have hplace : locate s.hw addr n = .outside := locate_outside s.hw houtside
  refine ⟨fun hb => (step_cons hl ho hb).trans ?read, fun hb => (step_cons hl ho hb).trans ?write⟩
  case read => simp only [performEvent, performOp, hplace]
  case write => simp only [performEvent, performOp, hplace]

/-! ### A fetched word (10_state.md R21; log 1) -/

/-- A program stays one host's when its own host gets one more access to make first. -/
theorem oneHost_cons_hostAgent {evs : List HostEvent} (h : oneHost evs = true) (op : HostOp) :
    oneHost (.access ((hostAgent evs).getD 0) op :: evs) = true := by
  have hall : allOfAgent ((hostAgent evs).getD 0) evs = true := by
    unfold oneHost at h
    cases ha : hostAgent evs with
    | none => exact (allOfAgent_iff _ evs).2 fun b x hb => absurd hb (hostAgent_none ha b x)
    | some a => simpa [ha] using h
  simp [oneHost, hostAgent, allOfAgent, hall]

/-- Settles O10: the placed word is the first access, a write of `CMD` by the program's own host. -/
theorem fetchedWordRunsNext : Obligations.FetchedWordRunsNext := by
  intro s nbits w i hl ho hw
  obtain ⟨⟨-, hlt⟩, hdecode⟩ := decodeTableWord_eq_some_iff.1 hw
  rw [← Nat.mod_eq_of_lt hlt] at hdecode
  exact stepRunsTheDecodedCommand (s.withFetchWord nbits w) _ _ i s.bus hl (oneHost_cons_hostAgent ho _) rfl hdecode

/-! ### Runs -/

theorem run_succ_of_step {s t : State} (h : step s = .next t) (k : Nat) :
    Host.Core.run Sys2Proof.core (k + 1) s = Host.Core.run Sys2Proof.core k t := by
  have hcore : Sys2Proof.core.step s = .next t := h
  simp only [Host.Core.run, hcore]

theorem run_succ_of_fault {s : State} {f : Fault} (h : step s = .fault f) (k : Nat) :
    Host.Core.run Sys2Proof.core (k + 1) s = .fault f := by
  have hcore : Sys2Proof.core.step s = .fault f := h
  simp only [Host.Core.run, hcore]

theorem run_succ_of_refused {s : State} {r : Refusal} (h : step s = .refused r) (k : Nat) :
    Host.Core.run Sys2Proof.core (k + 1) s = .refused r := by
  have hcore : Sys2Proof.core.step s = .refused r := h
  simp only [Host.Core.run, hcore]

/-! ### A run of an admitted program (60_exceptions.md R229) -/

theorem performWrite_answers (off : Nat) (v : Word) (s : State) : ∃ t, performWrite off v s = .next t := by
  unfold performWrite
  split
  · unfold runCommand
    split
    · exact exec_answers _ _
    · exact ⟨_, rfl⟩
  · exact ⟨_, rfl⟩

theorem performEvent_answers {ev : HostEvent} {s : State} (h : admitted s.hw ev = true) :
    ∃ t, performEvent ev s = .next t := by
  match ev with
  | .reset x => exact ⟨_, rfl⟩
  | .access agent (.read addr n) =>
    simp only [admitted] at h
    simp only [performEvent, performOp]
    split at h
    next off hplace =>
      simp only [hplace]
      exact ⟨_, rfl⟩
    next => cases h
  | .access agent (.write addr n v) =>
    simp only [admitted] at h
    simp only [performEvent, performOp]
    split at h
    next off hplace =>
      simp only [hplace]
      exact performWrite_answers off v s
    next => cases h

/-- A safe program takes its next step and is still safe. -/
theorem step_of_safeToRun {s : State} (h : SafeToRun s) : ∃ t, step s = .next t ∧ SafeToRun t := by
  obtain ⟨hl, ho, hadm⟩ := h
  cases hb : s.bus with
  | nil => exact ⟨s, idleCoreHoldsItsState s hl hb, hl, ho, hadm⟩
  | cons ev rest =>
    rw [hb, List.all_cons, Bool.and_eq_true] at hadm
    obtain ⟨hev, hrest⟩ := hadm
    obtain ⟨t, ht⟩ := performEvent_answers (s := { s with bus := rest }) hev
    obtain ⟨hhw, hbus⟩ := performEvent_program ht
    refine ⟨t, (step_cons hl ho hb).trans ht, ?_⟩
    rw [SafeToRun, hhw, hbus]
    exact ⟨hl, oneHost_tail (hb ▸ ho), hrest⟩

/-- Settles O52, by induction on the number of steps: `SafeToRun` is kept by the step it permits. -/
theorem admittedProgramsNeverStop : Obligations.AdmittedProgramsNeverStop := by
  intro s k
  induction k generalizing s with
  | zero => exact fun hs => ⟨s, rfl, hs⟩
  | succ k ih =>
    intro hs
    obtain ⟨u, hstep, hu⟩ := step_of_safeToRun hs
    rw [run_succ_of_step hstep]
    exact ih u hu

end Sys2Proof.Machine
end

section
/-! The invariant: it holds after reset and every step keeps it (10_state.md R22 to R32, R37, R40). -/

namespace Sys2Proof.Machine

/-! ### The reset state -/

theorem statLegal_statWord (c : Cause) : statLegal (statWord c false) = true := by
  cases c <;> decide

theorem statLegal_seed : statLegal (statWord .none true) = true := by decide

theorem resetWith_inv {p : Params} (hl : p.legal = true) : (State.resetWith p).Inv where
  legal := hl
  bankSize := List.length_replicate
  polesInRange v hv := by
    rw [List.eq_of_mem_replicate hv]
    exact zero_inRange p.w
  countInRange := by
    obtain ⟨⟨-, hn, -⟩, -⟩ := p.legal_iff.1 hl
    exact ⟨le_rfl, hn⟩
  coefInRange := Nat.two_pow_pos p.f
  shiftInRange := one_le_w_of_legal hl
  shiftMatches _ hcfg := Bool.noConfusion hcfg
  uninited _ := ⟨rfl, rfl, rfl⟩
  mulConfigured _ hi := Bool.noConfusion hi
  statIsLegal := statLegal_statWord .notInit

/-- Settles O53: `resetWith_inv`, and the default parameters are legal. -/
theorem resetMeetsTheInvariant : Obligations.ResetMeetsTheInvariant :=
  ⟨fun _ => resetWith_inv, resetWith_inv Params.default_legal⟩

/-! ### The shared operations -/

section
variable {s : State} (h : s.Inv)
include h

theorem State.Inv.report (c : Cause) : (s.report c false).Inv :=
  { h with statIsLegal := statLegal_statWord c }

theorem State.Inv.setRes (v : Word) : (s.setRes v).Inv :=
  { h with }

/-- The answer to the host and the rest of its program are not part of the invariant. -/
theorem State.Inv.withHost (evs : List HostEvent) (r : BusResponse) : State.Inv { s with bus := evs, resp := r } :=
  { h with }

theorem State.Inv.setRestart : State.Inv { s with restart := true } :=
  { h with
    uninited := fun hi =>
      have ⟨hcfg, hen, _⟩ := h.uninited hi
      ⟨hcfg, hen, rfl⟩ }

/-- A host's write stores operands only (20_memory.md R51). -/
theorem State.Inv.windowWrite (off : Nat) (v : Word) : (windowWrite off v s).Inv := by
  rw [windowWrite_eq]
  exact { h with }

/-- New poles keep the invariant when they are as many W-bit values. -/
theorem State.Inv.withPoles {ps : List Int} (hlen : ps.length = s.poles.length) (hr : ∀ v ∈ ps, InRange s.hw.w v) :
    State.Inv { s with poles := ps } :=
  { h with
    bankSize := hlen.trans h.bankSize
    polesInRange := hr }

theorem State.Inv.setActivePoles {v : Int} (hv : InRange s.hw.w v) : (setActivePoles v s).Inv := by
  refine h.withPoles (setActivePoles_length v s) fun x hx => ?_
  rcases List.mem_append.1 hx with hx | hx
  · obtain ⟨_, -, rfl⟩ := List.mem_map.1 hx
    exact hv
  · exact h.polesInRange x (List.mem_of_mem_drop hx)

variable (hi : s.inited = true)
include hi

/-- An initialised core may be enabled or not, restarting or not. -/
theorem State.Inv.withModes (e r : Bool) : State.Inv { s with en := e, restart := r } :=
  { h with uninited := fun hn => Bool.noConfusion (hi.symm.trans hn) }

/-- A configuration of an initialised core matches the variant's derivation (40_configure.md R101 to R107). -/
theorem State.Inv.configure {fc t : Word} {u : State} (hu : configure fc t s = some u) : u.Inv := by
  obtain ⟨hv, c, hc, rfl⟩ | ⟨hv, k, hk, rfl⟩ := configure_some hu
  · obtain ⟨hfc, ht, -, -⟩ := deriveCoef_some hc
    exact { h with
      coefInRange := deriveCoef_lt h.legal hc
      shiftMatches := fun hshift => Variant.noConfusion (hv.symm.trans hshift)
      uninited := fun hn => Bool.noConfusion (hi.symm.trans hn)
      mulConfigured := fun _ _ => ⟨rfl, hfc, ht⟩ }
  · obtain ⟨ht, hfc⟩ := deriveShift_some hk
    obtain ⟨⟨-, -, hbound, -⟩, -⟩ := s.hw.legal_iff.1 h.legal
    exact { h with
      shiftInRange := hbound (u32 fc, k) (mem_of_lookup hfc)
      shiftMatches := fun _ _ => ⟨ht, hfc⟩
      uninited := fun hn => Bool.noConfusion (hi.symm.trans hn)
      mulConfigured := fun hmul => Variant.noConfusion (hv.symm.trans hmul) }

theorem State.Inv.reconfigure {req : Word} {u : State} (hu : reconfigure req s = some u) : u.Inv := by
  obtain ⟨-, -, rfl⟩ | ⟨-, hu⟩ := reconfigure_some hu
  · exact h
  · exact h.configure hi hu

variable {sc : Int} (hsc : InRange s.hw.w sc)
include hsc

theorem State.Inv.seedTick : (seedTick sc s).Inv :=
  { (h.setActivePoles hsc).withModes hi s.en false with statIsLegal := statLegal_seed }

omit hi in
theorem State.Inv.cascade : (cascade sc s).Inv := by
  obtain ⟨c, -, hc⟩ | ⟨nps, out, hok, hc⟩ := cascade_cases sc s
  · rw [hc]
    exact ((h.setActivePoles hsc).setRestart.setRes _).report _
  · have hpoles := h.withPoles (cascadePoles_append_drop_length hok) fun v hv => (List.mem_append.1 hv).elim
      (cascadePoles_inRange (one_le_w_of_legal h.legal) hok v)
      (fun hv => h.polesInRange v (List.mem_of_mem_drop hv))
    rw [hc]
    exact (hpoles.setRes _).report .none

end

/-! ### The commands -/

theorem initRejects_eq_false_iff (s : State) :
    initRejects s = false ↔
      u32 s.arg0 ≠ 0 ∧ u32 s.arg1 ≠ 0 ∧ u32 s.arg2 < 2 ^ s.hw.f ∧ 1 ≤ u32 s.arg4 ∧ u32 s.arg4 ≤ s.hw.npolesMax := by
  rw [Bool.eq_false_iff, Ne, initRejects_iff]
  simp only [not_or, not_le, not_lt]

section
variable {s t : State} (h : s.Inv)
include h

/-- An accepted INIT checks `FC`, `T`, `COEF` and `N`, and `CFG_VALID` is what its variant allows (40_configure.md R110 to
R113). -/
theorem State.Inv.initConfigured (e : Bool) (hr : initRejects s = false) : (initConfigured (initRegisters e s)).Inv := by
  obtain ⟨hfc, ht, hcoef, hn⟩ := (initRejects_eq_false_iff s).1 hr
  cases hv : s.hw.variant with
  | mul =>
    rw [initConfigured_of_mul (s := initRegisters e s) hv]
    exact { h with
      countInRange := hn
      coefInRange := hcoef
      shiftMatches := fun hshift => Variant.noConfusion (hv.symm.trans hshift)
      uninited := fun hu => Bool.noConfusion hu
      mulConfigured := fun _ _ => ⟨rfl, hfc, ht⟩ }
  | shift =>
    cases hk : deriveShift s.hw (u32 s.arg0) (u32 s.arg1) with
    | none =>
      rw [initConfigured_of_unsupported (s := initRegisters e s) hv hk]
      exact { h with
        countInRange := hn
        coefInRange := hcoef
        shiftMatches := fun _ hcfg => Bool.noConfusion hcfg
        uninited := fun hu => Bool.noConfusion hu
        mulConfigured := fun hmul => Variant.noConfusion (hv.symm.trans hmul) }
    | some k =>
      obtain ⟨hperiod, hshift⟩ := deriveShift_some hk
      obtain ⟨⟨-, -, hbound, -⟩, -⟩ := s.hw.legal_iff.1 h.legal
      rw [initConfigured_of_supported (s := initRegisters e s) hv hk]
      exact { h with
        countInRange := hn
        coefInRange := hcoef
        shiftInRange := hbound (u32 s.arg0, k) (mem_of_lookup hshift)
        shiftMatches := fun _ _ => ⟨hperiod, hshift⟩
        uninited := fun hu => Bool.noConfusion hu
        mulConfigured := fun hmul => Variant.noConfusion (hv.symm.trans hmul) }

theorem execInit_inv {e : Bool} (hexec : execInit e s = .next t) : t.Inv := by
  obtain ⟨-, rfl⟩ | ⟨hr, rfl⟩ := execInit_next hexec
  · exact h.report _
  · exact (h.initConfigured e hr).report _

theorem execConfig_inv (hexec : execConfig s = .next t) : t.Inv := by
  obtain ⟨-, rfl⟩ | ⟨-, -, rfl⟩ | ⟨u, hi, hu, rfl⟩ := execConfig_next hexec
  · exact h.report _
  · exact h.report _
  · exact (h.configure hi hu).report _

theorem execApply_inv (hexec : execApply s = .next t) : t.Inv := by
  have hsc : InRange s.hw.w (tickInput s) := wrap_inRange (one_le_w_of_legal h.legal) _
  obtain ⟨-, rfl⟩ | ⟨-, -, rfl⟩ | ⟨-, -, -, rfl⟩ | ⟨u, hi, -, hu, -, rfl⟩ | ⟨u, hi, -, hu, -, rfl⟩ :=
    execApply_next hexec
  · exact (h.setRes _).report _
  · exact (h.setRes _).report _
  · exact (h.setRes _).report _
  · obtain ⟨hui, -, -⟩ := reconfigure_flags hu
    obtain ⟨hhw, -, -⟩ := reconfigure_request hu
    exact ((h.reconfigure hi hu).setRes (resPattern (tickInput s))).seedTick (hui.trans hi) (hhw ▸ hsc)
  · obtain ⟨hhw, -, -⟩ := reconfigure_request hu
    exact ((h.reconfigure hi hu).setRes _).cascade (hhw ▸ hsc)

theorem execSeten_inv {e : Bool} (hexec : execSeten e s = .next t) : t.Inv := by
  obtain ⟨-, rfl⟩ | ⟨hi, -, -, rfl⟩ | ⟨hi, -, rfl⟩ | ⟨-, -, -, rfl⟩ := execSeten_next hexec
  · exact h.report _
  · exact (h.withModes hi true true).report .none
  · exact (h.withModes hi false s.restart).report .none
  · exact h.report _

/-- Every command keeps the invariant. -/
theorem exec_inv {i : Instr} (hexec : exec i s = .next t) : t.Inv := by
  cases i with
  | init e => exact execInit_inv h hexec
  | config => exact execConfig_inv h hexec
  | apply => exact execApply_inv h hexec
  | restart =>
    obtain ⟨-, rfl⟩ | ⟨-, rfl⟩ := execRestart_next hexec
    · exact h.report _
    · exact h.setRestart.report _
  | seten e => exact execSeten_inv h hexec
  | rdadc =>
    obtain ⟨-, rfl⟩ | ⟨-, rfl⟩ := execRdadc_next hexec
    · exact h.report _
    · exact (h.setRes _).report _
  | rdwidth =>
    obtain rfl := Host.Outcome.next.inj hexec
    exact (h.setRes _).report _

end

/-- Settles O54: by what the step did; the reset input starts the invariant anew, everything else keeps it. -/
theorem stepKeepsTheInvariant : Obligations.StepKeepsTheInvariant := by
  intro s t h hstep
  obtain ⟨hl, -, ⟨-, rfl⟩ | ⟨ev, rest, -, hev⟩⟩ := step_next hstep
  · exact h
  · obtain ⟨x, -, rfl⟩ | ⟨agent, off, -, rfl⟩ | ⟨agent, off, v, -, rfl⟩ | ⟨agent, v, i, -, -, hexec⟩ |
      ⟨agent, v, r, -, -, rfl⟩ := performEvent_next hev
    · exact (resetWith_inv hl).withHost rest .none
    · exact h.withHost rest _
    · exact (h.withHost rest .ack).windowWrite off v
    · exact exec_inv (h.withHost rest .ack) hexec
    · exact (h.withHost rest .ack).report .illegal

end Sys2Proof.Machine
end

section
/-! Registers without a value yet are never observed: two cores that agree on the rest stay so (70_reset_and_hazards.md
R252). -/

namespace Sys2Proof.Machine

/-! ### States and outcomes that agree -/

theorem OutcomesAgree.cases {x y : Host.Outcome State Fault Refusal} (h : OutcomesAgree x y) :
    (∃ u v, x = .next u ∧ y = .next v ∧ Agree u v) ∨ (∃ f, x = .fault f ∧ y = .fault f) ∨
      (∃ r, x = .refused r ∧ y = .refused r) := by
  cases x with
  | next u =>
    cases y with
    | next v => exact .inl ⟨u, v, rfl, rfl, h⟩
    | fault _ | refused _ => exact h.elim
  | fault f =>
    cases y with
    | fault g => exact .inr (.inl ⟨f, rfl, congrArg _ (Eq.symm h)⟩)
    | next _ | refused _ => exact h.elim
  | refused r =>
    cases y with
    | refused q => exact .inr (.inr ⟨r, rfl, congrArg _ (Eq.symm h)⟩)
    | next _ | fault _ => exact h.elim

theorem Agree.refl (s : State) : Agree s s :=
  ⟨rfl, rfl, rfl, rfl, rfl, rfl, rfl, rfl, rfl, rfl, rfl, rfl, rfl, rfl, rfl, fun _ => ⟨rfl, rfl, rfl, rfl, rfl⟩,
    fun _ _ _ => rfl, fun _ _ => rfl⟩

/-! ### The active poles after a write of them -/

/-- The active poles of a bank whose active poles were written are what was written, also where `N` passes the bank. -/
theorem take_append_drop_of_length {ps nps : List Int} {n : Nat} (h : nps.length = (ps.take n).length) :
    (nps ++ ps.drop n).take n = nps := by
  by_cases hn : n ≤ ps.length
  · exact List.take_left' (h.trans (List.length_take_of_le hn))
  · have hall : ps.length ≤ n := by omega
    rw [List.drop_eq_nil_of_le hall, List.append_nil, List.take_of_length_le]
    rw [h, List.length_take]
    exact min_le_left _ _

theorem take_setActivePoles (x : Int) (s : State) :
    (setActivePoles x s).poles.take s.n = List.replicate (min s.n s.poles.length) x := by
  rw [setActivePoles_poles, take_append_drop_of_length (List.length_map _), List.map_const', List.length_take]

/-! ### The register the MUL variant lacks -/

/-- The loop runs alike where every stage does. -/
theorem cascadePoles_congr {p : Params} {coef coef' shift shift' : Nat}
    (h : ∀ cur pole, stage p coef shift cur pole = stage p coef' shift' cur pole) (ps : List Int) (cur : Int) :
    cascadePoles p coef shift ps cur = cascadePoles p coef' shift' ps cur := by
  induction ps generalizing cur with
  | nil => rfl
  | cons pole rest ih => simp only [cascadePoles, h, ih]

theorem cascadePoles_shift_of_mul {p : Params} (hv : p.variant = .mul) (coef shift shift' : Nat) :
    ∀ (ps : List Int) (cur : Int), cascadePoles p coef shift ps cur = cascadePoles p coef shift' ps cur :=
  cascadePoles_congr fun cur pole => by simp only [stage, lagValue, hv]

/-! ### The shared operations -/

section
variable {a b : State} (h : Agree a b)
include h

theorem Agree.report (c : Cause) (seed : Bool) : Agree (a.report c seed) (b.report c seed) :=
  { h with stat := rfl }

theorem Agree.setRes (v : Word) : Agree (a.setRes v) (b.setRes v) :=
  { h with res := rfl }

theorem Agree.withBus (evs : List HostEvent) : Agree { a with bus := evs } { b with bus := evs } :=
  { h with bus := rfl }

theorem Agree.windowWrite (off : Nat) (v : Word) : Agree (windowWrite off v a) (windowWrite off v b) := by
  rw [windowWrite_eq, windowWrite_eq]
  exact { h with
    arg0 := congrArg (ite _ v) h.arg0
    arg1 := congrArg (ite _ v) h.arg1
    arg2 := congrArg (ite _ v) h.arg2
    arg3 := congrArg (ite _ v) h.arg3
    arg4 := congrArg (ite _ v) h.arg4 }

/-- A restarting core reads no pole, so any two banks of one size agree. -/
theorem Agree.setRestart {ps qs : List Int} (hlen : ps.length = qs.length) :
    Agree { a with poles := ps, restart := true } { b with poles := qs, restart := true } :=
  { h with
    bankSize := hlen
    restart := rfl
    poles := fun _ hr => Bool.noConfusion hr }

theorem Agree.withEn (e : Bool) : Agree { a with en := e } { b with en := e } :=
  { h with en := rfl }

theorem Agree.setActivePoles_length (x : Int) :
    (setActivePoles x a).poles.length = (setActivePoles x b).poles.length := by
  rw [Machine.setActivePoles_length, Machine.setActivePoles_length, h.bankSize]

theorem Agree.stateWord : stateWord a = stateWord b := by
  have hn : (if a.inited then a.n else 0) = if b.inited then b.n else 0 := by
    rw [← h.inited]
    split
    · next hi => exact (h.configured hi).1
    · rfl
  rw [Machine.stateWord, Machine.stateWord, hn, h.hw, h.cfgValid, h.restart, h.en, h.inited]

theorem Agree.windowRead (off : Nat) : windowRead a off = windowRead b off := by
  simp only [windowRead_eq, h.arg0, h.arg1, h.arg2, h.arg3, h.arg4, h.res, h.stat, h.stateWord]

theorem Agree.tickInput : tickInput a = tickInput b := by
  rw [Machine.tickInput, Machine.tickInput, h.hw, h.arg0]

variable (hi : a.inited = true)
include hi

/-- `Commit` with one coefficient, and with one shift factor in the variant that has it (40_configure.md R105). -/
theorem Agree.commit (fc t : Word) {c c' k k' : Nat} (hc : c = c') (hk : a.hw.variant = .shift → k = k') :
    Agree (commit fc t { a with coef := c, shift := k }) (commit fc t { b with coef := c', shift := k' }) := by
  obtain ⟨hn, -, -, -, hadc⟩ := h.configured hi
  have hrestart : (a.restart || a.hw.restartOnReconfig) = (b.restart || b.hw.restartOnReconfig) := by
    rw [h.restart, h.hw]
  exact { h with
    restart := hrestart
    cfgValid := rfl
    configured := fun _ => ⟨hn, rfl, rfl, hc, hadc⟩
    shift := fun hv _ _ => hk hv
    poles := fun _ hr => h.poles hi (Bool.or_eq_false_iff.1 hr).1 }

/-- `Configure` refuses both cores or leaves both configured alike. -/
theorem Agree.configure (fc t : Word) :
    (configure fc t a = none ∧ configure fc t b = none) ∨
      ∃ u v, configure fc t a = some u ∧ configure fc t b = some v ∧ Agree u v := by
  obtain ⟨-, -, -, hcoef, -⟩ := h.configured hi
  cases hv : a.hw.variant with
  | mul =>
    rw [configure_of_mul fc t hv, configure_of_mul fc t (h.hw ▸ hv),
      show deriveCoef b.hw = deriveCoef a.hw by rw [h.hw]]
    cases deriveCoef a.hw (u32 fc) (u32 t) with
    | none => exact .inl ⟨rfl, rfl⟩
    | some c =>
      exact .inr ⟨_, _, rfl, rfl, h.commit hi fc t rfl fun hshift => Variant.noConfusion (hv.symm.trans hshift)⟩
  | shift =>
    rw [configure_of_shift fc t hv, configure_of_shift fc t (h.hw ▸ hv),
      show deriveShift b.hw = deriveShift a.hw by rw [h.hw]]
    cases deriveShift a.hw (u32 fc) (u32 t) with
    | none => exact .inl ⟨rfl, rfl⟩
    | some k => exact .inr ⟨_, _, rfl, rfl, h.commit hi fc t hcoef fun _ => rfl⟩

/-- Step 3 of APPLY refuses both cores or leaves both configured alike (41_apply.md R153). -/
theorem Agree.reconfigure :
    (reconfigure a.arg1 a = none ∧ reconfigure b.arg1 b = none) ∨
      ∃ u v, reconfigure a.arg1 a = some u ∧ reconfigure b.arg1 b = some v ∧ Agree u v := by
  obtain ⟨-, hfc, ht, -, -⟩ := h.configured hi
  have hdue : reconfigureDue b.arg1 b = reconfigureDue a.arg1 a := by
    rw [reconfigureDue, reconfigureDue, h.arg1, hfc, h.cfgValid]
  rw [Machine.reconfigure, Machine.reconfigure, hdue, ← h.arg1, ← ht]
  split
  · exact h.configure hi a.arg1 a.t
  · exact .inr ⟨a, b, rfl, rfl, h⟩

/-- INIT's choice of `CFG_VALID` and `SHIFT` (40_configure.md R112, R113). -/
theorem Agree.initConfigured : Agree (initConfigured a) (initConfigured b) := by
  obtain ⟨-, hfc, ht, -, -⟩ := h.configured hi
  cases hv : a.hw.variant with
  | mul =>
    rw [initConfigured_of_mul hv, initConfigured_of_mul (h.hw ▸ hv)]
    exact { h with
      cfgValid := rfl
      shift := fun hshift => Variant.noConfusion (hv.symm.trans hshift) }
  | shift =>
    have hb : deriveShift b.hw (u32 b.fc) (u32 b.t) = deriveShift a.hw (u32 a.fc) (u32 a.t) := by rw [h.hw, hfc, ht]
    cases hk : deriveShift a.hw (u32 a.fc) (u32 a.t) with
    | none =>
      rw [initConfigured_of_unsupported hv hk, initConfigured_of_unsupported (h.hw ▸ hv) (hb.trans hk)]
      exact { h with
        cfgValid := rfl
        shift := fun _ _ hcfg => Bool.noConfusion hcfg }
    | some k =>
      rw [initConfigured_of_supported hv hk, initConfigured_of_supported (h.hw ▸ hv) (hb.trans hk)]
      exact { h with
        cfgValid := rfl
        shift := fun _ _ _ => rfl }

theorem Agree.seedTick (sc : Int) : Agree (seedTick sc a) (seedTick sc b) := by
  obtain ⟨hn, -⟩ := h.configured hi
  have hactive : (setActivePoles sc a).poles.take a.n = (setActivePoles sc b).poles.take a.n := by
    rw [take_setActivePoles, hn, take_setActivePoles, h.bankSize]
  exact { h with
    bankSize := h.setActivePoles_length sc
    restart := rfl
    stat := rfl
    poles := fun _ _ => hactive }

omit hi in
theorem Agree.recover (sc : Int) : Agree (recover sc a) (recover sc b) :=
  ((h.setRestart (h.setActivePoles_length sc)).setRes (resPattern sc)).report .overflow false

variable (hcfg : a.cfgValid = true) (hr : a.restart = false)
include hcfg hr

/-- The loop reads registers with a value only: the poles of a steady core, and the factor of its own variant. -/
theorem Agree.cascadePoles (sc : Int) :
    cascadePoles b.hw b.coef b.shift (b.poles.take b.n) sc = cascadePoles a.hw a.coef a.shift (a.poles.take a.n) sc := by
  obtain ⟨hn, -, -, hcoef, -⟩ := h.configured hi
  rw [← h.hw, ← hcoef, ← hn, ← h.poles hi hr]
  cases hv : a.hw.variant with
  | mul => exact cascadePoles_shift_of_mul hv _ _ _ _ _
  | shift => rw [h.shift hv hi hcfg]

theorem Agree.cascade (sc : Int) : Agree (cascade sc a) (cascade sc b) := by
  obtain ⟨hn, -⟩ := h.configured hi
  have hloop := h.cascadePoles hi hcfg hr sc
  cases ha : Machine.cascadePoles a.hw a.coef a.shift (a.poles.take a.n) sc with
  | error e =>
    rw [cascade_of_error ha, cascade_of_error (hloop.trans ha)]
    exact h.recover sc
  | ok r =>
    obtain ⟨nps, out⟩ := r
    have hb := hloop.trans ha
    have hactive : (nps ++ a.poles.drop a.n).take a.n = (nps ++ b.poles.drop b.n).take a.n := by
      rw [take_append_drop_of_length (cascadePoles_length ha), hn, take_append_drop_of_length (cascadePoles_length hb)]
    rw [cascade_of_ok ha, cascade_of_ok hb]
    exact { h with
      bankSize := (cascadePoles_append_drop_length ha).trans
        (h.bankSize.trans (cascadePoles_append_drop_length hb).symm)
      res := rfl
      stat := rfl
      poles := fun _ _ => hactive }

end

/-! ### The commands -/

/-- INIT's choice overwrites `CFG_VALID` without reading it. -/
theorem initConfigured_withCfgValid (s : State) (v : Bool) : initConfigured { s with cfgValid := v } = initConfigured s := by
  unfold initConfigured
  cases s.hw.variant with
  | mul => rfl
  | shift => cases deriveShift s.hw (u32 s.fc) (u32 s.t) <;> rfl

section
variable {a b : State} (h : Agree a b)
include h

theorem Agree.initRejects : initRejects a = initRejects b := by
  rw [Machine.initRejects, Machine.initRejects, h.hw, h.arg0, h.arg1, h.arg2, h.arg4]

/-- INIT writes every register without a value but the poles, which a restarting core does not read. The old `CFG_VALID`
is overwritten. -/
theorem Agree.initRegisters (e : Bool) :
    Agree { initRegisters e a with cfgValid := false } { initRegisters e b with cfgValid := false } :=
  { h with
    en := rfl
    restart := rfl
    cfgValid := rfl
    inited := rfl
    configured := fun _ => ⟨congrArg u32 h.arg4, h.arg0, h.arg1, congrArg u32 h.arg2, h.arg3⟩
    shift := fun _ _ hcfg => Bool.noConfusion hcfg
    poles := fun _ hr => Bool.noConfusion hr }

theorem execInit_agree (e : Bool) : OutcomesAgree (execInit e a) (execInit e b) := by
  have hb := h.initRejects
  cases ha : Machine.initRejects a with
  | true =>
    rw [execInit_of_rejects e ha, execInit_of_rejects e (hb ▸ ha)]
    exact { h with stat := rfl }
  | false =>
    have hconf : Agree (initConfigured (initRegisters e a)) (initConfigured (initRegisters e b)) := by
      rw [← initConfigured_withCfgValid (initRegisters e a) false, ← initConfigured_withCfgValid (initRegisters e b) false]
      exact (h.initRegisters e).initConfigured rfl
    rw [execInit_of_accepts e ha, execInit_of_accepts e (hb ▸ ha)]
    exact { hconf with stat := rfl }

theorem execConfig_agree : OutcomesAgree (execConfig a) (execConfig b) := by
  obtain ⟨haNot, haRejected, haAccepted⟩ := configRunsConfigure a
  obtain ⟨hbNot, hbRejected, hbAccepted⟩ := configRunsConfigure b
  change OutcomesAgree (exec .config a) (exec .config b)
  cases hi : a.inited with
  | false =>
    rw [haNot hi, hbNot (h.inited ▸ hi)]
    exact { h with stat := rfl }
  | true =>
    have hib : b.inited = true := h.inited ▸ hi
    have hconf := h.configure hi a.arg0 a.arg1
    obtain ⟨ha, hb⟩ | ⟨u, v, ha, hb, huv⟩ := hconf
    · rw [haRejected hi ha, hbRejected hib (h.arg0 ▸ h.arg1 ▸ hb)]
      exact { h with stat := rfl }
    · rw [haAccepted u hi ha, hbAccepted v hib (h.arg0 ▸ h.arg1 ▸ hb)]
      exact { huv with stat := rfl }

theorem exec_apply_agree : OutcomesAgree (exec .apply a) (exec .apply b) := by
  have hsc := h.tickInput
  cases hi : a.inited with
  | false =>
    rw [exec_apply_of_not_inited hi, exec_apply_of_not_inited (h.inited ▸ hi), hsc]
    exact (h.setRes _).report _ _
  | true =>
    have hib : b.inited = true := h.inited ▸ hi
    cases he : a.en with
    | false =>
      rw [exec_apply_of_disabled hi he, exec_apply_of_disabled hib (h.en ▸ he), hsc]
      exact (h.setRes _).report _ _
    | true =>
      have heb : b.en = true := h.en ▸ he
      obtain ⟨ha, hb⟩ | ⟨u, v, ha, hb, huv⟩ := h.reconfigure hi
      · rw [exec_apply_of_rejected hi he ha, exec_apply_of_rejected hib heb hb, hsc]
        exact (h.setRes _).report _ _
      · obtain ⟨hui, -, -⟩ := reconfigure_flags ha
        obtain ⟨-, hcfg⟩ := (reconfigureDue_eq_false_iff _ u).1 (reconfigureDue_of_reconfigure ha)
        cases hr : u.restart with
        | true =>
          rw [exec_apply_seed hi he ha hr, exec_apply_seed hib heb hb (huv.restart ▸ hr), hsc]
          exact (huv.setRes (resPattern (Machine.tickInput b))).seedTick (hui.trans hi) _
        | false =>
          rw [exec_apply_cascade hi he ha hr, exec_apply_cascade hib heb hb (huv.restart ▸ hr), hsc]
          exact huv.cascade (hui.trans hi) hcfg hr _

theorem exec_restart_agree : OutcomesAgree (exec .restart a) (exec .restart b) := by
  cases hi : a.inited with
  | false =>
    rw [exec_restart_of_not_inited hi, exec_restart_of_not_inited (h.inited ▸ hi)]
    exact { h with stat := rfl }
  | true =>
    rw [exec_restart_of_inited hi, exec_restart_of_inited (h.inited ▸ hi)]
    exact { h.setRestart h.bankSize with stat := rfl }

theorem exec_seten_agree (e : Bool) : OutcomesAgree (exec (.seten e) a) (exec (.seten e) b) := by
  obtain ⟨haNot, haEnables, haEnabled, haDisables⟩ := setenSetsTheEnablementFlag a
  obtain ⟨hbNot, hbEnables, hbEnabled, hbDisables⟩ := setenSetsTheEnablementFlag b
  cases hi : a.inited with
  | false =>
    rw [haNot e hi, hbNot e (h.inited ▸ hi)]
    exact { h with stat := rfl }
  | true =>
    have hib : b.inited = true := h.inited ▸ hi
    cases e with
    | false =>
      rw [haDisables hi, hbDisables hib]
      exact { h.withEn false with stat := rfl }
    | true =>
      cases he : a.en with
      | false =>
        rw [haEnables hi he, hbEnables hib (h.en ▸ he)]
        exact { (h.setRestart h.bankSize).withEn true with stat := rfl }
      | true =>
        rw [haEnabled hi he, hbEnabled hib (h.en ▸ he)]
        exact { h with stat := rfl }

theorem exec_rdadc_agree : OutcomesAgree (exec .rdadc a) (exec .rdadc b) := by
  cases hi : a.inited with
  | false =>
    rw [exec_rdadc_of_not_inited hi, exec_rdadc_of_not_inited (h.inited ▸ hi)]
    exact { h with stat := rfl }
  | true =>
    obtain ⟨-, -, -, -, hadc⟩ := h.configured hi
    rw [exec_rdadc_of_inited hi, exec_rdadc_of_inited (h.inited ▸ hi)]
    exact { h with res := hadc, stat := rfl }

theorem exec_rdwidth_agree : OutcomesAgree (exec .rdwidth a) (exec .rdwidth b) := by
  rw [exec_rdwidth, exec_rdwidth]
  exact { h with res := congrArg (fun p : Params => BitVec.ofNat 32 p.w) h.hw, stat := rfl }

theorem exec_agree (i : Instr) : OutcomesAgree (exec i a) (exec i b) := by
  cases i with
  | init e => exact execInit_agree h e
  | config => exact execConfig_agree h
  | apply => exact exec_apply_agree h
  | restart => exact exec_restart_agree h
  | seten e => exact exec_seten_agree h e
  | rdadc => exact exec_rdadc_agree h
  | rdwidth => exact exec_rdwidth_agree h

/-! ### The host's events -/

theorem runCommand_agree (v : Word) : OutcomesAgree (runCommand v a) (runCommand v b) := by
  unfold runCommand
  split
  · exact exec_agree h _
  · exact h.report .illegal false

theorem performWrite_agree (off : Nat) (v : Word) : OutcomesAgree (performWrite off v a) (performWrite off v b) := by
  have hack : Agree { a with resp := .ack } { b with resp := .ack } := { h with resp := rfl }
  unfold performWrite
  split
  · exact runCommand_agree hack v
  · exact hack.windowWrite off v

theorem performOp_agree (op : HostOp) : OutcomesAgree (performOp op a) (performOp op b) := by
  have hplace : ∀ addr n, locate b.hw addr n = locate a.hw addr n := fun addr n => by rw [h.hw]
  cases op with
  | read addr n =>
    simp only [performOp, hplace]
    cases locate a.hw addr n with
    | reg off => exact { h with resp := congrArg BusResponse.data (h.windowRead off) }
    | misaccess | outside => rfl
  | write addr n v =>
    simp only [performOp, hplace]
    cases locate a.hw addr n with
    | reg off => exact performWrite_agree h off v
    | misaccess | outside => rfl

/-- The reset input leaves states that agree: they are the same. -/
theorem assertReset_agree : Agree (assertReset a) (assertReset b) := by
  rw [assertReset, assertReset, h.hw, h.bus]
  exact Agree.refl _

theorem performEvent_agree (ev : HostEvent) : OutcomesAgree (performEvent ev a) (performEvent ev b) := by
  cases ev with
  | access agent op => exact performOp_agree h op
  | reset x => exact assertReset_agree h

theorem step_agree : OutcomesAgree (step a) (step b) := by
  cases hl : a.hw.legal with
  | false =>
    rw [step_of_not_legal hl, step_of_not_legal (h.hw ▸ hl)]
    rfl
  | true =>
    have hlb : b.hw.legal = true := h.hw ▸ hl
    cases ho : oneHost a.bus with
    | false =>
      rw [step_of_not_oneHost hl ho, step_of_not_oneHost hlb (h.bus ▸ ho)]
      rfl
    | true =>
      cases hbus : a.bus with
      | nil =>
        rw [idleCoreHoldsItsState a hl hbus, idleCoreHoldsItsState b hlb (h.bus ▸ hbus)]
        exact h
      | cons ev rest =>
        rw [step_cons hl ho hbus, step_cons hlb (h.bus ▸ ho) (h.bus ▸ hbus)]
        exact performEvent_agree (h.withBus rest) ev

end

/-! ### Runs -/

theorem run_agree (k : Nat) {a b : State} (h : Agree a b) :
    OutcomesAgree (Host.Core.run Sys2Proof.core k a) (Host.Core.run Sys2Proof.core k b) := by
  induction k generalizing a b with
  | zero => exact h
  | succ k ih =>
    obtain ⟨u, v, ha, hb, huv⟩ | ⟨f, ha, hb⟩ | ⟨r, ha, hb⟩ := (step_agree h).cases
    · rw [run_succ_of_step ha, run_succ_of_step hb]
      exact ih huv
    · rw [run_succ_of_fault ha, run_succ_of_fault hb]
      rfl
    · rw [run_succ_of_refused ha, run_succ_of_refused hb]
      rfl

/-- The reset states agree whatever the registers without a reset value hold: the core is not initialised and restarts. -/
theorem resetWith_agree (p : Params) {ps : List Int} (n coef shift : Nat) (fc t adcBits : Word)
    (h : ps.length = p.npolesMax) :
    Agree (State.resetWith p)
      { State.resetWith p with poles := ps, n := n, coef := coef, shift := shift, fc := fc, t := t, adcBits := adcBits } :=
  { Agree.refl (State.resetWith p) with
    bankSize := List.length_replicate.trans h.symm
    configured := fun hi => Bool.noConfusion hi
    shift := fun _ hi => Bool.noConfusion hi
    poles := fun hi => Bool.noConfusion hi }

/-- Settles O55: agreement is kept step by step, and the reset states agree. -/
theorem chosenResetValuesAreNeverObserved : Obligations.ChosenResetValuesAreNeverObserved :=
  ⟨fun k _ _ => run_agree k, fun p _ n coef shift fc t adcBits => resetWith_agree p n coef shift fc t adcBits⟩

end Sys2Proof.Machine
end

section
/-! The derived coefficient as a function of `fc * T` (40_configure.md R109, 95_test_vectors.md section 5.2), and the bounds
of the two terms of a MUL lag (41_apply.md R155). -/

namespace Sys2Proof.Machine

/-! ### Rising below half scale -/

/-- A number's product with its complement to `m` does not fall up to half of `m`. -/
theorem mul_comp_mono {a a' m : Nat} (h : a ≤ a') (hm : 2 * a' ≤ m) : a * (m - a) ≤ a' * (m - a') := by
  obtain ⟨d, rfl⟩ := Nat.exists_eq_add_of_le h
  obtain ⟨r, rfl⟩ := Nat.exists_eq_add_of_le hm
  have hlow : 2 * (a + d) + r - a = a + 2 * d + r := by omega
  have hhigh : 2 * (a + d) + r - (a + d) = a + d + r := by omega
  rw [hlow, hhigh]
  nlinarith

/-- Settles O21: `LAG_K * fc * T` does not fall, nor does its product with its complement, nor the rounded quotient. -/
theorem derivedCoefficientGrowsBelowHalfScale : Obligations.DerivedCoefficientGrowsBelowHalfScale := by
  intro p fc t fc' t' c c' hl hle hhalf hc hc'
  obtain ⟨-, -, -, rfl⟩ := deriveCoef_some hc
  obtain ⟨-, -, -, rfl⟩ := deriveCoef_some hc'
  have haccum : accumOf p fc t ≤ accumOf p fc' t' := by
    rw [accumOf, accumOf, mul_assoc, mul_assoc]
    exact Nat.mul_le_mul_left p.lagK hle
  have hscale : 2 * accumOf p fc' t' ≤ 2 ^ p.w := by
    rw [← Nat.sub_add_cancel (one_le_w_of_legal hl), pow_succ']
    exact Nat.mul_le_mul_left 2 hhalf
  exact Nat.div_le_div_right (Nat.add_le_add_right (mul_comp_mono haccum hscale) p.coefBias)

/-- Settles O22: the derivation is evaluated on each pair; the accepted range has 18 frequencies. -/
theorem derivedCoefficientCornerCases : Obligations.DerivedCoefficientCornerCases := by
  refine ⟨by decide, fun fc hlo hhi => ?_, by decide, by decide, by decide⟩
  interval_cases fc <;> decide

/-! ### The terms of a MUL lag (41_apply.md R155) -/

section
variable {p : Params} (hl : p.legal = true) {coef : Nat} (hc : coef < 2 ^ p.f) {d : Int}
include hl hc

/-- The integer term is a product of a signed and an unsigned `F`-bit number. -/
theorem intTerm_natAbs_le (hd : InRange p.w d) : (intTerm p coef d).natAbs ≤ 2 ^ (p.f - 1) * (2 ^ p.f - 1) := by
  have hip := intPart_inRange hl hd
  rw [w_sub_f_of_legal hl, InRange] at hip
  have habs : (intPart p d).natAbs ≤ 2 ^ (p.f - 1) := by
    zify
    exact abs_le.2 ⟨hip.1, hip.2.le⟩
  rw [intTerm, Int.natAbs_mul, Int.natAbs_natCast]
  exact Nat.mul_le_mul habs (by omega)

omit hl in
/-- The fractional product is one of two unsigned `F`-bit numbers. -/
theorem fracPart_mul_le : fracPart p d * coef ≤ (2 ^ p.f - 1) * (2 ^ p.f - 1) :=
  Nat.mul_le_mul (Nat.le_sub_one_of_lt (maskLow_lt d p.f)) (Nat.le_sub_one_of_lt hc)

end

/-- Settles O35, with `2^F = 2 (k + 1)`: the bias is then `k + 1` and the word has `4 (k + 1)^2` values. The two terms
together lie between 0 and `d`, so the lag adder is exact. -/
theorem mulLagNeverOverflows : Obligations.MulLagNeverOverflows := by
  intro p coef d hl hbias hc hd
  obtain ⟨⟨hw, -⟩, hf, -⟩ := p.legal_iff.1 hl
  have hint := intTerm_natAbs_le hl hc hd
  have hfrac : fracPart p d * coef ≤ (2 ^ p.f - 1) * (2 ^ p.f - 1) := fracPart_mul_le hc
  have hsum := inRange_of_between hd (intTerm_add_fracTerm_between hl hc)
  obtain ⟨k, hk⟩ : ∃ k, 2 ^ (p.f - 1) = k + 1 := Nat.exists_eq_add_one.2 (Nat.two_pow_pos _)
  have hF : 2 ^ p.f = 2 * (k + 1) := by rw [← hk, ← pow_succ', Nat.sub_add_cancel hf]
  have hW : 2 ^ (p.w - 1) = 2 * (k + 1) * (k + 1) := by
    rw [← hF, ← hk, ← pow_add]
    congr 1
    omega
  rw [w_sub_f_of_legal hl, hk] at hbias
  rw [hF, show 2 * (k + 1) - 1 = 2 * k + 1 by omega] at hfrac
  refine ⟨hint, ?intTerm, ?product, fun h2 => ?fracTerm, hsum,
    ovf_wrap_add_eq_false (one_le_w_of_legal hl) (intTerm_inRange hl hc hd) (fracTerm_inRange hl hc) hsum⟩
  case intTerm =>
    rw [hF, hk, show 2 * (k + 1) - 1 = 2 * k + 1 by omega] at hint
    rw [hW]
    nlinarith
  case product =>
    rw [hbias, ← Nat.sub_add_cancel (one_le_w_of_legal hl), pow_succ', hW]
    nlinarith
  case fracTerm =>
    have hk1 : 1 ≤ k := by
      have h2F : 2 ^ 1 ≤ 2 ^ (p.f - 1) := Nat.pow_le_pow_right (by decide) (by omega)
      omega
    rw [fracTerm, w_sub_f_of_legal hl, hbias, hF, show 2 * (k + 1) - 2 = 2 * k by omega, ← Nat.lt_succ_iff,
      Nat.div_lt_iff_lt_mul (by omega)]
    nlinarith

end Sys2Proof.Machine
end

section
/-! How a tick ends: the first failure, the stage loop, what a failed tick leaves, and that step 3 is CONFIG's configuration
(41_apply.md R150 to R153, 40_configure.md R117, 60_exceptions.md R224, 95_test_vectors.md section 4). -/

namespace Sys2Proof.Machine

/-! ### The failures before the cascade (60_exceptions.md R224) -/

theorem report_disabled (s : State) : s.report .disabled false = { s with stat := 0x00000010 } := by
  rw [State.report, statWord_disabled]

theorem report_configRejected (s : State) : s.report .configRejected false = { s with stat := 0x00000020 } := by
  rw [State.report, statWord_configRejected]

/-- Where it is due, step 3 is `Configure` on the stored `T` (41_apply.md R153). -/
theorem reconfigure_of_due {req : Word} {s : State} (h : req ≠ s.fc ∨ s.cfgValid = false) :
    reconfigure req s = configure req s.t s :=
  if_pos ((reconfigureDue_iff req s).2 h)

/-- Settles O24: each failure is APPLY's equation for it, after step 1 wrote the scaled input. -/
theorem applyReportsTheFirstFailure : Obligations.ApplyReportsTheFirstFailure := by
  intro s
  refine ⟨fun hi => exec_apply_writes_of_not_inited hi, fun hi he => ?disabled, fun hi he hdue hc => ?rejected⟩
  case disabled =>
    rw [exec_apply_of_disabled hi he, report_disabled]
    rfl
  case rejected =>
    rw [exec_apply_of_rejected hi he ((reconfigure_of_due hdue).trans hc), report_configRejected]
    rfl

/-! ### The stage loop (41_apply.md R150) -/

/-- Stages that all pass run through: the new poles are the stages' outputs, the last of which is the loop's. -/
theorem cascadePoles_ok {p : Params} {coef shift : Nat} {ps : List Int} {c : Nat → Int}
    (h : ∀ i, i < ps.length → ∃ q, ps[i]? = some q ∧ stage p coef shift (c i) q = .ok (c (i + 1))) :
    cascadePoles p coef shift ps (c 0) = .ok ((List.range ps.length).map fun i => c (i + 1), c ps.length) := by
  induction ps generalizing c with
  | nil => rfl
  | cons q rest ih =>
    obtain ⟨q', hq', hstage⟩ := h 0 (Nat.zero_lt_succ _)
    obtain rfl : q = q' := by simpa using hq'
    have hrest := ih (c := fun i => c (i + 1)) fun i hi => h (i + 1) (Nat.succ_lt_succ hi)
    simp only [Nat.zero_add] at hrest
    simp only [cascadePoles, hstage, hrest, List.length_cons, List.range_succ_eq_map, List.map_cons, List.map_map]
    rfl

/-- Stages that exist up to `n` make up a bank of at least `n` poles. -/
theorem count_le_of_stagesPass {s : State} {c : Nat → Int} {n : Nat} (h : StagesPass s c n) : n ≤ s.poles.length := by
  cases n with
  | zero => exact Nat.zero_le _
  | succ n =>
    obtain ⟨q, hq, -⟩ := h n (Nat.lt_succ_self n)
    exact (List.getElem?_eq_some_iff.1 hq).1

/-- Settles O26: the loop runs through, so the tick is a passed cascade. -/
theorem cascadeFollowsTheStageLoop : Obligations.CascadeFollowsTheStageLoop := by
  intro s s3 c hi he hdue hkeep hr hc0 hpass
  have hu := reconfigure_eq_some hdue hkeep
  obtain ⟨hpoles, hn⟩ := reconfigure_bank hu
  rw [← hn] at hpass ⊢
  have hsc : tickInput s = c 0 := hc0.symm
  have hlen : (s3.poles.take s3.n).length = s3.n := List.length_take_of_le (count_le_of_stagesPass hpass)
  have hloop := cascadePoles_ok (p := s3.hw) (coef := s3.coef) (shift := s3.shift) (ps := s3.poles.take s3.n) (c := c)
    fun i hi => by
      rw [hlen] at hi
      obtain ⟨q, hq, hstage⟩ := hpass i hi
      exact ⟨q, (List.getElem?_take_of_lt hi).trans hq, stage_eq_ok_iff_stagePasses.2 hstage⟩
  rw [hlen] at hloop
  refine ⟨(List.range s3.n).map (fun i => c (i + 1)) ++ s3.poles.drop s3.n, ?exec, ?length, fun i hi => ?active,
    fun i hi => ?beyond⟩
  case exec =>
    rw [exec_apply_cascade hi he hu hr, hsc, cascade_of_ok hloop, report_success]
    rfl
  case length => rw [← hpoles, cascadePoles_append_drop_length hloop]
  case active =>
    rw [List.getElem?_append_left (by simpa using hi)]
    simp [hi]
  case beyond =>
    rw [← hpoles, List.getElem?_append_right (by simpa using hi)]
    simp [hi]

/-! ### What a failed tick and a seed tick leave (95_test_vectors.md section 4) -/

/-- Settles O29, by the five ways a tick ends. -/
theorem failedTicksLeaveTheScaledInput : Obligations.FailedTicksLeaveTheScaledInput := by
  intro s t h
  obtain ⟨-, rfl⟩ | ⟨-, -, rfl⟩ | ⟨-, -, -, rfl⟩ | ⟨u, -, -, hu, -, rfl⟩ | ⟨u, -, -, hu, -, rfl⟩ := execApply_next h
  · exact ⟨fun _ => rfl, fun _ _ => rfl, by simp⟩
  · exact ⟨fun _ => rfl, fun _ _ => rfl, by simp⟩
  · exact ⟨fun _ => rfl, fun _ _ => rfl, by simp⟩
  · exact ⟨fun _ => rfl, by simp [seedTick], fun _ k hk hlen =>
      setActivePoles_active _ _ hk (hlen.trans_eq (setActivePoles_length _ _))⟩
  · rw [cascade_setRes]
    obtain ⟨e, -, hc⟩ | ⟨nps, out, -, hc⟩ := cascade_cases (tickInput s) u <;> rw [hc]
    · exact ⟨fun _ => rfl, by simp [recover], fun _ k hk hlen =>
        setActivePoles_active _ _ hk (hlen.trans_eq (setActivePoles_length _ _))⟩
    · simp

/-! ### Step 3 and CONFIG (40_configure.md R117) -/

/-- `Configure` neither reads nor writes the operand registers. -/
theorem configure_withOperands (fc t a b : Word) (s : State) :
    configure fc t { s with arg0 := a, arg1 := b } = (configure fc t s).map fun u => { u with arg0 := a, arg1 := b } := by
  cases hv : s.hw.variant with
  | mul =>
    rw [configure_of_mul fc t hv, configure_of_mul (s := { s with arg0 := a, arg1 := b }) fc t hv, Option.map_map]
    rfl
  | shift =>
    rw [configure_of_shift fc t hv, configure_of_shift (s := { s with arg0 := a, arg1 := b }) fc t hv, Option.map_map]
    rfl

/-- CONFIG with operands `fc` and `t` runs `Configure` on them, whatever the operand registers held. -/
theorem exec_config_withOperands (fc t : Word) {s : State} (hi : s.inited = true) :
    (configure fc t s = none →
      exec .config { s with arg0 := fc, arg1 := t } = .next { s with arg0 := fc, arg1 := t, stat := 0x00000020 }) ∧
    ∀ u, configure fc t s = some u →
      exec .config { s with arg0 := fc, arg1 := t } = .next { u with arg0 := fc, arg1 := t, stat := 0x00000001 } := by
  obtain ⟨-, hrejected, haccepted⟩ := configRunsConfigure { s with arg0 := fc, arg1 := t }
  have hconf := configure_withOperands fc t fc t s
  exact ⟨fun hc => hrejected hi (hconf.trans (by rw [hc]; rfl)),
    fun u hc => haccepted _ hi (hconf.trans (by rw [hc]; rfl))⟩

/-- A cascade reports success or `OVERFLOW` (41_apply.md R150, R151). -/
theorem cascade_cause (sc : Int) (s : State) : statCause (cascade sc s).stat ≠ Cause.configRejected.code := by
  obtain ⟨_, -, h⟩ | ⟨_, _, -, h⟩ := cascade_cases sc s <;> rw [h]
  · simp [recover]
  · simp

/-- Settles O23: both run `Configure` on the same pair; the tick then leaves the configuration alone and reports no
rejection. -/
theorem applyReconfiguresAsConfigDoes : Obligations.ApplyReconfiguresAsConfigDoes := by
  intro s t u hi he hdue happly hconfig
  obtain ⟨hrejected, haccepted⟩ := exec_config_withOperands s.arg1 s.t hi
  have hrejectedCause : statCause 0x00000020 = Cause.configRejected.code := by decide
  have hacceptedCause : statCause 0x00000001 ≠ Cause.configRejected.code := by decide
  have hstep3 := reconfigure_of_due hdue
  obtain ⟨hi', -⟩ | ⟨-, he', -⟩ | ⟨-, -, hr, rfl⟩ | ⟨v, -, -, hv, -, rfl⟩ | ⟨v, -, -, hv, -, rfl⟩ := execApply_next happly
  · simp [hi] at hi'
  · simp [he] at he'
  · obtain rfl := Host.Outcome.next.inj (hconfig.symm.trans (hrejected (hstep3.symm.trans hr)))
    exact ⟨rfl, rfl, rfl, rfl, rfl, iff_of_true (statCause_statWord _ _) hrejectedCause⟩
  · obtain rfl := Host.Outcome.next.inj (hconfig.symm.trans (haccepted v (hstep3.symm.trans hv)))
    exact ⟨rfl, rfl, rfl, rfl, rfl, iff_of_false (by simp [seedTick]) hacceptedCause⟩
  · obtain rfl := Host.Outcome.next.inj (hconfig.symm.trans (haccepted v (hstep3.symm.trans hv)))
    rw [cascade_setRes, cascade_frame]
    exact ⟨rfl, rfl, rfl, rfl, rfl, iff_of_false (cascade_cause _ v) hacceptedCause⟩

end Sys2Proof.Machine
end

section
/-! What sets and clears the flags `RESTART`, `INITED` and `CFG_VALID` (10_state.md R30 to R32). -/

namespace Sys2Proof.Machine

/-! ### `RESTART` (10_state.md R30) -/

/-- A flag that kept its value was not cleared. -/
theorem not_cleared_of_eq {x y : Bool} (h : y = x) {P : Prop} (hx : x = true) (hy : y = false) : P := by
  simp [h, hx] at hy

/-- A flag that kept its value was neither cleared nor set. -/
theorem not_changed_of_eq {x y : Bool} (h : y = x) {P Q : Prop} :
    (x = true → y = false → P) ∧ (x = false → y = true → Q) := by
  subst h
  exact ⟨not_cleared_of_eq rfl, fun hx hy => not_cleared_of_eq rfl hy hx⟩

theorem execApply_restart {s t : State} (h : execApply s = .next t) :
    (s.restart = true → t.restart = false → t.stat = 0x00000101) ∧
    (s.restart = false → t.restart = true → t.stat = 0x00000030) := by
  obtain ⟨-, rfl⟩ | ⟨-, -, rfl⟩ | ⟨-, -, -, rfl⟩ | ⟨u, -, -, hu, -, rfl⟩ | ⟨u, -, -, hu, hr, rfl⟩ := execApply_next h
  · exact not_changed_of_eq rfl
  · exact not_changed_of_eq rfl
  · exact not_changed_of_eq rfl
  · exact ⟨fun _ _ => statWord_seed, fun _ ht => Bool.noConfusion ht⟩
  · rw [cascade_setRes]
    obtain ⟨-, -, hc⟩ | ⟨nps, out, -, hc⟩ := cascade_cases (tickInput s) u <;> rw [hc]
    · exact ⟨fun _ ht => Bool.noConfusion ht, fun _ _ => statWord_overflow⟩
    · obtain ⟨-, -, hkeep⟩ := reconfigure_flags hu
      have hs : s.restart = false := Bool.eq_false_iff.2 fun hs => by simp [hkeep hs] at hr
      exact not_changed_of_eq (hr.trans hs.symm)

/-- Settles O46: each command by its answers, of which most leave the flag alone. -/
theorem restartFlagChangesOnlyAsListed : Obligations.RestartFlagChangesOnlyAsListed := by
  intro i s t h
  cases i with
  | init e =>
    obtain ⟨-, rfl⟩ | ⟨-, rfl⟩ := execInit_next h
    · exact not_changed_of_eq rfl
    · obtain ⟨-, -, hr⟩ := initConfigured_flags (initRegisters e s)
      exact ⟨fun _ ht => Bool.noConfusion (ht.symm.trans hr), fun _ _ => .inl ⟨e, rfl⟩⟩
  | config =>
    obtain ⟨-, rfl⟩ | ⟨-, -, rfl⟩ | ⟨u, -, hu, rfl⟩ := execConfig_next h
    · exact not_changed_of_eq rfl
    · exact not_changed_of_eq rfl
    · obtain ⟨-, -, hr⟩ := configure_flags hu
      refine ⟨fun hs => not_cleared_of_eq (hr.trans (by rw [hs, Bool.true_or])) rfl, fun hs ht => ?_⟩
      rw [hs, Bool.false_or] at hr
      exact .inr (.inr (.inr (.inr ⟨rfl, hr.symm.trans ht⟩)))
  | apply =>
    obtain ⟨hclear, hset⟩ := execApply_restart h
    exact ⟨fun hs ht => ⟨rfl, hclear hs ht⟩, fun hs ht => .inr (.inr (.inr (.inl ⟨rfl, hset hs ht⟩)))⟩
  | restart =>
    obtain ⟨-, rfl⟩ | ⟨-, rfl⟩ := execRestart_next h
    · exact not_changed_of_eq rfl
    · exact ⟨fun _ ht => Bool.noConfusion ht, fun _ _ => .inr (.inl rfl)⟩
  | seten e =>
    obtain ⟨-, rfl⟩ | ⟨-, rfl, he, rfl⟩ | ⟨-, -, rfl⟩ | ⟨-, -, -, rfl⟩ := execSeten_next h
    · exact not_changed_of_eq rfl
    · exact ⟨fun _ ht => Bool.noConfusion ht, fun _ _ => .inr (.inr (.inl ⟨rfl, he⟩))⟩
    · exact not_changed_of_eq rfl
    · exact not_changed_of_eq rfl
  | rdadc =>
    rw [execRdadc_frame h]
    exact not_changed_of_eq rfl
  | rdwidth =>
    rw [execRdwidth_frame h]
    exact not_changed_of_eq rfl

/-! ### `INITED` and `CFG_VALID` (10_state.md R31, R32) -/

/-- No command clears `INITED`. -/
theorem exec_inited {i : Instr} {s t : State} (h : exec i s = .next t) (hi : s.inited = true) : t.inited = true := by
  by_cases hinit : ∃ e, i = .init e
  · obtain ⟨e, rfl⟩ := hinit
    obtain ⟨-, rfl⟩ | ⟨-, rfl⟩ := execInit_next h
    · exact hi
    · exact (initConfigured_flags (initRegisters e s)).1
  · obtain ⟨-, -, -, -, -, -, -, -, hkeep, -⟩ := commandsWriteOnlyTheirRegisters i s t h
    obtain ⟨-, -, hinited⟩ := hkeep fun e he => hinit ⟨e, he⟩
    exact hinited.trans hi

/-- An INIT clears `CFG_VALID` only in the SHIFT variant and for an unsupported pair (40_configure.md R112, R113). -/
theorem initConfigured_cfgValid_eq_false {s : State} (h : (initConfigured s).cfgValid = false) :
    s.hw.variant = .shift ∧ deriveShift s.hw (u32 s.fc) (u32 s.t) = none := by
  cases hv : s.hw.variant with
  | mul =>
    rw [initConfigured_of_mul hv] at h
    exact Bool.noConfusion h
  | shift =>
    cases hk : deriveShift s.hw (u32 s.fc) (u32 s.t) with
    | none => exact ⟨rfl, rfl⟩
    | some k =>
      rw [initConfigured_of_supported hv hk] at h
      exact Bool.noConfusion h

theorem configure_cfgValid {fc t : Word} {s u : State} (h : configure fc t s = some u) : u.cfgValid = true := by
  obtain ⟨-, c, -, rfl⟩ | ⟨-, k, -, rfl⟩ := configure_some h <;> rfl

/-- APPLY never clears `CFG_VALID`: a step 3 that passes leaves it 1. -/
theorem execApply_cfgValid {s t : State} (h : execApply s = .next t) (hc : s.cfgValid = true) : t.cfgValid = true := by
  obtain ⟨-, rfl⟩ | ⟨-, -, rfl⟩ | ⟨-, -, -, rfl⟩ | ⟨u, -, -, hu, -, rfl⟩ | ⟨u, -, -, hu, -, rfl⟩ := execApply_next h
  · exact hc
  · exact hc
  · exact hc
  · exact ((reconfigureDue_eq_false_iff _ u).1 (reconfigureDue_of_reconfigure hu)).2
  · rw [cascade_frame]
    exact ((reconfigureDue_eq_false_iff _ u).1 (reconfigureDue_of_reconfigure hu)).2

/-- Only an INIT of the SHIFT variant with an unsupported pair clears `CFG_VALID`. -/
theorem exec_clears_cfgValid {i : Instr} {s t : State} (h : exec i s = .next t) (hc : s.cfgValid = true)
    (ht : t.cfgValid = false) :
    s.hw.variant = .shift ∧ deriveShift s.hw (u32 s.arg0) (u32 s.arg1) = none ∧ ∃ e, i = .init e := by
  cases i with
  | init e =>
    obtain ⟨-, rfl⟩ | ⟨-, rfl⟩ := execInit_next h
    · exact not_cleared_of_eq rfl hc ht
    · obtain ⟨hv, hk⟩ := initConfigured_cfgValid_eq_false ht
      exact ⟨hv, hk, e, rfl⟩
  | config =>
    obtain ⟨-, rfl⟩ | ⟨-, -, rfl⟩ | ⟨u, -, hu, rfl⟩ := execConfig_next h
    · exact not_cleared_of_eq rfl hc ht
    · exact not_cleared_of_eq rfl hc ht
    · exact not_cleared_of_eq (configure_cfgValid hu) rfl ht
  | apply => exact not_cleared_of_eq (execApply_cfgValid h hc) rfl ht
  | restart => exact not_cleared_of_eq (congrArg State.cfgValid (execRestart_frame h)) hc ht
  | seten e => exact not_cleared_of_eq (congrArg State.cfgValid (execSeten_frame h)) hc ht
  | rdadc => exact not_cleared_of_eq (congrArg State.cfgValid (execRdadc_frame h)) hc ht
  | rdwidth => exact not_cleared_of_eq (congrArg State.cfgValid (execRdwidth_frame h)) hc ht

/-- Settles O47: by what the step did; of the events only the reset input clears `INITED`. -/
theorem onlyResetUninitialises : Obligations.OnlyResetUninitialises := by
  intro s t h
  obtain ⟨-, -, ⟨-, rfl⟩ | ⟨ev, rest, hb, hev⟩⟩ := step_next h
  · exact ⟨not_cleared_of_eq rfl, not_cleared_of_eq rfl⟩
  · obtain ⟨x, rfl, -⟩ | ⟨agent, off, -, rfl⟩ | ⟨agent, off, v, -, rfl⟩ | ⟨agent, v, i, rfl, hv, hexec⟩ |
      ⟨agent, v, r, -, -, rfl⟩ := performEvent_next hev
    · exact ⟨fun _ _ => ⟨x, rest, hb⟩, fun _ _ => .inl ⟨x, rest, hb⟩⟩
    · exact ⟨not_cleared_of_eq rfl, not_cleared_of_eq rfl⟩
    · rw [windowWrite_eq]
      exact ⟨not_cleared_of_eq rfl, not_cleared_of_eq rfl⟩
    · refine ⟨fun hi => not_cleared_of_eq (exec_inited hexec hi) rfl, fun hc ht => .inr ?_⟩
      obtain ⟨hvariant, hk, e, rfl⟩ := exec_clears_cfgValid hexec hc ht
      rw [← encode_of_decode hv] at hb
      exact ⟨hvariant, deriveShift_none_iff.1 hk, agent, e, rest, hb⟩
    · exact ⟨not_cleared_of_eq rfl, not_cleared_of_eq rfl⟩

end Sys2Proof.Machine
end

section
/-! Registers a command does not use: the operands it does not list (30_encoding.md R71), and the register of the other
variant (10_state.md R26, R27; log 15). -/

namespace Sys2Proof.Machine

/-! ### Changes no operation of a variant sees -/

/-- `f` changes only registers that, but for the operands themselves, no command other than INIT reads or writes in the
variant `v`: what the commands read is as before, and `f` commutes with each of their writes. -/
structure Unseen (v : Variant) (f : State → State) : Prop where
  hw : ∀ s, (f s).hw = s.hw
  inited : ∀ s, (f s).inited = s.inited
  en : ∀ s, (f s).en = s.en
  restart : ∀ s, (f s).restart = s.restart
  cfgValid : ∀ s, (f s).cfgValid = s.cfgValid
  fc : ∀ s, (f s).fc = s.fc
  t : ∀ s, (f s).t = s.t
  adcBits : ∀ s, (f s).adcBits = s.adcBits
  loop : ∀ s sc, s.hw.variant = v →
    cascadePoles (f s).hw (f s).coef (f s).shift ((f s).poles.take (f s).n) sc =
      cascadePoles s.hw s.coef s.shift (s.poles.take s.n) sc
  report : ∀ s c seed, (f s).report c seed = f (s.report c seed)
  setRes : ∀ s w, (f s).setRes w = f (s.setRes w)
  setRestart : ∀ s b, { f s with restart := b } = f { s with restart := b }
  setEn : ∀ s b, { f s with en := b } = f { s with en := b }
  setActive : ∀ s nps, { f s with poles := nps ++ (f s).poles.drop (f s).n } = f { s with poles := nps ++ s.poles.drop s.n }
  setActivePoles : ∀ s x, setActivePoles x (f s) = f (setActivePoles x s)
  commitCoef : v = .mul → ∀ s fc t c, commit fc t { f s with coef := c } = f (commit fc t { s with coef := c })
  commitShift : v = .shift → ∀ s fc t k, commit fc t { f s with shift := k } = f (commit fc t { s with shift := k })

section
variable {v : Variant} {f : State → State} (hf : Unseen v f) {s : State} (hv : s.hw.variant = v)
include hf

theorem Unseen.seedTick (sc : Int) (u : State) : seedTick sc (f u) = f (seedTick sc u) := by
  rw [Machine.seedTick, hf.setActivePoles, hf.setRestart, hf.report]
  rfl

theorem Unseen.recover (sc : Int) (u : State) : recover sc (f u) = f (recover sc u) := by
  rw [Machine.recover, hf.setActivePoles, hf.setRestart, hf.setRes, hf.report]
  rfl

include hv

theorem Unseen.configure (fc t : Word) : configure fc t (f s) = (configure fc t s).map f := by
  have hvf : (f s).hw.variant = v := (congrArg Params.variant (hf.hw s)).trans hv
  cases v with
  | mul =>
    rw [configure_of_mul fc t hvf, configure_of_mul fc t hv, Option.map_map,
      show deriveCoef (f s).hw = deriveCoef s.hw by rw [hf.hw]]
    exact congrArg (Option.map · _) (funext fun c => hf.commitCoef rfl s fc t c)
  | shift =>
    rw [configure_of_shift fc t hvf, configure_of_shift fc t hv, Option.map_map,
      show deriveShift (f s).hw = deriveShift s.hw by rw [hf.hw]]
    exact congrArg (Option.map · _) (funext fun k => hf.commitShift rfl s fc t k)

theorem Unseen.reconfigure (req : Word) : reconfigure req (f s) = (reconfigure req s).map f := by
  have hdue : reconfigureDue req (f s) = reconfigureDue req s := by
    rw [reconfigureDue, reconfigureDue, hf.fc, hf.cfgValid]
  rw [Machine.reconfigure, Machine.reconfigure, hdue, hf.t]
  split
  · exact hf.configure hv req s.t
  · rfl

theorem Unseen.cascade (sc : Int) : cascade sc (f s) = f (cascade sc s) := by
  have hloop := hf.loop s sc hv
  cases h : cascadePoles s.hw s.coef s.shift (s.poles.take s.n) sc with
  | error e => rw [cascade_of_error h, cascade_of_error (hloop.trans h), hf.recover]
  | ok r => rw [cascade_of_ok h, cascade_of_ok (hloop.trans h), hf.setActive, hf.setRes, hf.report]

/-! ### The commands other than INIT -/

theorem exec_config_of_unseen {t : State} (h : exec .config s = .next t) (h0 : (f s).arg0 = s.arg0)
    (h1 : (f s).arg1 = s.arg1) : exec .config (f s) = .next (f t) := by
  have hconf : Machine.configure (f s).arg0 (f s).arg1 (f s) = (Machine.configure s.arg0 s.arg1 s).map f := by
    rw [h0, h1, hf.configure hv]
  obtain ⟨hn, rfl⟩ | ⟨hn, hc, rfl⟩ | ⟨u, hn, hc, rfl⟩ := execConfig_next h
  · simp [exec, execConfig, hf.inited, hn, hf.report]
  · simp [exec, execConfig, hf.inited, hn, hconf, hc, hf.report]
  · simp [exec, execConfig, hf.inited, hn, hconf, hc, hf.report]

theorem exec_apply_of_unseen {t : State} (h : exec .apply s = .next t) (h0 : (f s).arg0 = s.arg0)
    (h1 : (f s).arg1 = s.arg1) : exec .apply (f s) = .next (f t) := by
  have hsc : tickInput (f s) = tickInput s := by rw [tickInput, tickInput, hf.hw, h0]
  have hstep3 : Machine.reconfigure (f s).arg1 (f s) = (Machine.reconfigure s.arg1 s).map f := by
    rw [h1, hf.reconfigure hv]
  have hinited := hf.inited s
  have hen := hf.en s
  obtain ⟨hn, rfl⟩ | ⟨hn, he, rfl⟩ | ⟨hn, he, hr, rfl⟩ | ⟨u, hn, he, hu, hres, rfl⟩ | ⟨u, hn, he, hu, hres, rfl⟩ :=
    execApply_next h
  · rw [exec_apply_of_not_inited (hinited.trans hn), hsc, hf.setRes, hf.report]
  · rw [exec_apply_of_disabled (hinited.trans hn) (hen.trans he), hsc, hf.setRes, hf.report]
  · rw [hr, Option.map_none] at hstep3
    rw [exec_apply_of_rejected (hinited.trans hn) (hen.trans he) hstep3, hsc, hf.setRes, hf.report]
  · rw [hu, Option.map_some] at hstep3
    rw [exec_apply_seed (hinited.trans hn) (hen.trans he) hstep3 ((hf.restart u).trans hres), hsc, hf.setRes, hf.seedTick]
  · rw [hu, Option.map_some] at hstep3
    have hvu : u.hw.variant = v := (congrArg Params.variant (reconfigure_request hu).1).trans hv
    rw [exec_apply_cascade (hinited.trans hn) (hen.trans he) hstep3 ((hf.restart u).trans hres), hsc, cascade_setRes,
      hf.cascade hvu]

omit hv in
theorem exec_seten_of_unseen {e : Bool} {t : State} (h : exec (.seten e) s = .next t) :
    exec (.seten e) (f s) = .next (f t) := by
  obtain ⟨hn, rfl⟩ | ⟨hn, rfl, he, rfl⟩ | ⟨hn, rfl, rfl⟩ | ⟨hn, rfl, he, rfl⟩ := execSeten_next h
  · simp [exec, execSeten, hf.inited, hn, hf.report]
  · have hmodes : { f s with en := true, restart := true } = f { s with en := true, restart := true } :=
      (congrArg (fun u : State => { u with restart := true }) (hf.setEn s true)).trans (hf.setRestart _ true)
    rw [exec, execSeten, if_neg (by simp [hf.inited, hn]), if_pos ⟨rfl, (hf.en s).trans he⟩, hmodes, hf.report]
  · rw [exec, execSeten, if_neg (by simp [hf.inited, hn]), if_neg (by simp), if_pos rfl, hf.setEn, hf.report]
  · simp [exec, execSeten, hf.inited, hf.en, hn, he, hf.report]

/-- A command other than INIT answers alike where `f` leaves its listed operands alone. -/
theorem exec_of_unseen {i : Instr} {t : State} (h : exec i s = .next t) (hi : ∀ e, i ≠ .init e)
    (hargs : i = .config ∨ i = .apply → (f s).arg0 = s.arg0 ∧ (f s).arg1 = s.arg1) : exec i (f s) = .next (f t) := by
  cases i with
  | init e => exact absurd rfl (hi e)
  | config =>
    obtain ⟨h0, h1⟩ := hargs (.inl rfl)
    exact exec_config_of_unseen hf hv h h0 h1
  | apply =>
    obtain ⟨h0, h1⟩ := hargs (.inr rfl)
    exact exec_apply_of_unseen hf hv h h0 h1
  | restart =>
    obtain ⟨hn, rfl⟩ | ⟨hn, rfl⟩ := execRestart_next h
    · simp [exec, execRestart, hf.inited, hn, hf.report]
    · rw [exec, execRestart, if_neg (by simp [hf.inited, hn]), hf.setRestart, hf.report]
  | seten e => exact exec_seten_of_unseen hf h
  | rdadc =>
    obtain ⟨hn, rfl⟩ | ⟨hn, rfl⟩ := execRdadc_next h
    · simp [exec, execRdadc, hf.inited, hn, hf.report]
    · simp [exec, execRdadc, hf.inited, hn, hf.adcBits, hf.setRes, hf.report]
  | rdwidth =>
    obtain rfl := Host.Outcome.next.inj h
    simp [exec, execRdwidth, hf.hw, hf.setRes, hf.report]

end

/-! ### The operands (30_encoding.md R71) -/

/-- `s` with other operands; `ARG0` and `ARG1` only where a value is given. -/
def State.withOperands (a b : Option Word) (c d e : Word) (s : State) : State :=
  { s with arg0 := a.getD s.arg0, arg1 := b.getD s.arg1, arg2 := c, arg3 := d, arg4 := e }

theorem withOperands_unseen (v : Variant) (a b : Option Word) (c d e : Word) :
    Unseen v (State.withOperands a b c d e) := by
  constructor <;> intros <;> rfl

/-- Settles O50: the operands a command does not list are unseen. -/
theorem unlistedOperandsAreIgnored : Obligations.UnlistedOperandsAreIgnored := by
  intro i s t a b c d e h
  constructor
  · intro hi
    exact exec_of_unseen (withOperands_unseen s.hw.variant none none c d e) rfl h (by rintro x rfl; simp at hi)
      fun _ => ⟨rfl, rfl⟩
  · intro hinit hconfig happly
    exact exec_of_unseen (withOperands_unseen s.hw.variant (some a) (some b) c d e) rfl h hinit
      fun hi => absurd hi (by simp [hconfig, happly])

/-! ### The register of the other variant (10_state.md R26, R27) -/

/-- `s` with another `SHIFT`. -/
def State.withShift (k : Nat) (s : State) : State := { s with shift := k }

/-- `s` with another `COEF`. -/
def State.withCoef (k : Nat) (s : State) : State := { s with coef := k }

theorem cascadePoles_coef_of_shift {p : Params} (hv : p.variant = .shift) (coef coef' shift : Nat) :
    ∀ (ps : List Int) (cur : Int), cascadePoles p coef shift ps cur = cascadePoles p coef' shift ps cur :=
  cascadePoles_congr fun cur pole => by simp only [stage, lagValue, hv]

theorem withShift_unseen (k : Nat) : Unseen .mul (State.withShift k) := by
  constructor
  case loop => exact fun s sc hv => cascadePoles_shift_of_mul hv _ _ _ _ _
  case commitShift => exact fun hv => Variant.noConfusion hv
  all_goals intros; rfl

theorem withCoef_unseen (k : Nat) : Unseen .shift (State.withCoef k) := by
  constructor
  case loop => exact fun s sc hv => cascadePoles_coef_of_shift hv _ _ _ _ _
  case commitCoef => exact fun hv => Variant.noConfusion hv
  all_goals intros; rfl

/-- INIT of the MUL variant does not see `SHIFT` either (40_configure.md R112). -/
theorem execInit_withShift_of_mul {e : Bool} {s t : State} (k : Nat) (hv : s.hw.variant = .mul)
    (h : execInit e s = .next t) : execInit e (s.withShift k) = .next (t.withShift k) := by
  obtain ⟨hr, rfl⟩ | ⟨hr, rfl⟩ := execInit_next h
  · exact execInit_of_rejects (s := s.withShift k) e hr
  · rw [execInit_of_accepts (s := s.withShift k) e hr, initConfigured_of_mul (s := initRegisters e (s.withShift k)) hv,
      initConfigured_of_mul (s := initRegisters e s) hv]
    rfl

theorem exec_withShift_of_mul {i : Instr} {s t : State} (k : Nat) (hv : s.hw.variant = .mul) (h : exec i s = .next t) :
    exec i (s.withShift k) = .next (t.withShift k) := by
  by_cases hi : ∃ e, i = .init e
  · obtain ⟨e, rfl⟩ := hi
    exact execInit_withShift_of_mul k hv h
  · exact exec_of_unseen (withShift_unseen k) hv h (fun e he => hi ⟨e, he⟩) fun _ => ⟨rfl, rfl⟩

theorem exec_withCoef_of_shift {i : Instr} {s t : State} (k : Nat) (hv : s.hw.variant = .shift) (hi : ∀ e, i ≠ .init e)
    (h : exec i s = .next t) : exec i (s.withCoef k) = .next (t.withCoef k) :=
  exec_of_unseen (withCoef_unseen k) hv h hi fun _ => ⟨rfl, rfl⟩

/-- Settles O51: the register is not read; with its own value for the other, the command is seen to keep it. -/
theorem registerOfTheOtherVariantIsIgnored : Obligations.RegisterOfTheOtherVariantIsIgnored := by
  intro i s t k h
  refine ⟨fun hv => ⟨?keepsShift, exec_withShift_of_mul k hv h⟩,
    fun hv hi => ⟨?keepsCoef, exec_withCoef_of_shift k hv hi h⟩⟩
  case keepsShift =>
    have hsame : exec i s = .next (t.withShift s.shift) := exec_withShift_of_mul s.shift hv h
    have hkept := congrArg State.shift (Host.Outcome.next.inj (h.symm.trans hsame))
    exact hkept
  case keepsCoef =>
    have hsame : exec i s = .next (t.withCoef s.coef) := exec_withCoef_of_shift s.coef hv hi h
    have hkept := congrArg State.coef (Host.Outcome.next.inj (h.symm.trans hsame))
    exact hkept

end Sys2Proof.Machine
end

section
/-! The assembler: which operands it refuses, its pseudo-commands, and that a line's host writes execute its command
(30_encoding.md R75 to R77). -/

namespace Sys2Proof

/-! ### Operands that fit (30_encoding.md R75) -/

theorem fitsU32_iff (v : Int) : fitsU32 v = true ↔ 0 ≤ v ∧ v < 2 ^ 32 := by
  rw [fitsU32, Bool.and_eq_true, decide_eq_true_eq, decide_eq_true_eq]

theorem fitsS32_iff (v : Int) : fitsS32 v = true ↔ -2 ^ 31 ≤ v ∧ v < 2 ^ 31 := by
  rw [fitsS32, Bool.and_eq_true, decide_eq_true_eq, decide_eq_true_eq]

theorem fitsBit_iff (v : Int) : fitsBit v = true ↔ v = 0 ∨ v = 1 := by
  rw [fitsBit, Bool.or_eq_true, decide_eq_true_eq, decide_eq_true_eq]

end Sys2Proof

namespace Sys2Proof.Machine

theorem assembleLine_eq_none_iff (p : Params) (l : AsmLine) : assembleLine p l = none ↔ ¬ l.wellFormed = true := by
  unfold assembleLine
  split <;> simp [*]

theorem assembleLine_eq_some {p : Params} {l : AsmLine} {ws : List HostOp} (h : assembleLine p l = some ws) :
    ws = operandWrites p.base 0 (lineOperands l) ++ [.write p.base 4 (encode (lineInstr l))] := by
  unfold assembleLine at h
  split at h
  · exact (Option.some.inj h).symm
  · cases h

/-- Settles O56: a line is refused where it is not well formed, and its check is that of each operand. -/
theorem assemblerRefusesOperandsThatDoNotFit : Obligations.AssemblerRefusesOperandsThatDoNotFit := by
  intro p fc t coef0 adcBits n e raw reqFc
  simp only [assembleLine_eq_none_iff, AsmLine.wellFormed, Option.map_some, Option.getD_some, Bool.and_eq_true, fitsU32_iff,
    fitsS32_iff, fitsBit_iff, and_assoc, iff_self, and_self]

/-- Settles O57: a pseudo-command and its expansion have the same operands, command and check. -/
theorem pseudoCommandsExpand : Obligations.PseudoCommandsExpand := by
  exact fun p fc t coef0 adcBits n => ⟨rfl, rfl, rfl⟩

/-! ### The writes of a line (30_encoding.md R77) -/

/-- The end of a program with one host has one host. -/
theorem oneHost_of_append {evs rest : List HostEvent} (h : oneHost (evs ++ rest) = true) : oneHost rest = true := by
  induction evs with
  | nil => exact h
  | cons ev evs ih => exact ih (oneHost_tail h)

/-- The core after the writes of operands `k`, `k + 1`, …, each of them acknowledged. -/
def storeOperands : Nat → List Int → State → State
  | _, [], s => s
  | k, v :: rest, s => storeOperands (k + 1) rest (windowWrite (0x04 + 4 * k) (BitVec.ofInt 32 v) { s with resp := .ack })

theorem length_operandWrites (base k : Nat) (vs : List Int) : (operandWrites base k vs).length = vs.length := by
  induction vs generalizing k with
  | nil => rfl
  | cons v vs ih => rw [operandWrites, List.length_cons, ih, List.length_cons]

theorem windowWrite_withBus (off : Nat) (v : Word) (s : State) (evs : List HostEvent) :
    windowWrite off v { s with bus := evs } = { windowWrite off v s with bus := evs } := by
  rw [windowWrite_eq, windowWrite_eq]

/-- Storing operands writes neither a parameter nor the host's program. -/
theorem storeOperands_program (k : Nat) (vs : List Int) (s : State) :
    (storeOperands k vs s).hw = s.hw ∧ (storeOperands k vs s).bus = s.bus := by
  induction vs generalizing k s with
  | nil => exact ⟨rfl, rfl⟩
  | cons v vs ih =>
    obtain ⟨hhw, hbus⟩ := ih (k + 1) (windowWrite (0x04 + 4 * k) (BitVec.ofInt 32 v) { s with resp := .ack })
    obtain ⟨hhw', hbus'⟩ := windowWrite_program (0x04 + 4 * k) (BitVec.ofInt 32 v) { s with resp := .ack }
    exact ⟨hhw.trans hhw', hbus.trans hbus'⟩

/-- Running the operand writes of a line stores the operands, at most five of them. -/
theorem run_operandWrites {agent : Nat} {rest : List HostEvent} (m : Nat) (vs : List Int) (k : Nat) (s : State)
    (hk : k + vs.length ≤ 5) (hl : s.hw.legal = true) (ho : oneHost s.bus = true)
    (hb : s.bus = accesses agent (operandWrites s.hw.base k vs) ++ rest) :
    Host.Core.run Sys2Proof.core (m + vs.length) s =
      Host.Core.run Sys2Proof.core m (storeOperands k vs { s with bus := rest }) := by
  induction vs generalizing k s with
  | nil =>
    have hs : { s with bus := rest } = s := by rw [← (show s.bus = rest from hb)]
    rw [hs]
    rfl
  | cons v vs ih =>
    rw [List.length_cons] at hk
    have hb' : s.bus = .access agent (.write (s.hw.base + (0x04 + 4 * k)) 4 (BitVec.ofInt 32 v)) ::
        (accesses agent (operandWrites s.hw.base (k + 1) vs) ++ rest) := by
      rw [hb, operandWrites, Nat.add_assoc]
      rfl
    have hstep := step_write hl ho (by omega) (by omega) hb'
    rw [performWrite_of_ne_zero _ _ (by omega)] at hstep
    obtain ⟨hhw, hbus⟩ := windowWrite_program (0x04 + 4 * k) (BitVec.ofInt 32 v)
      { s with bus := accesses agent (operandWrites s.hw.base (k + 1) vs) ++ rest, resp := .ack }
    rw [List.length_cons, ← Nat.add_assoc, run_succ_of_step hstep, ih (k + 1) _ (by omega) (by rw [hhw]; exact hl)
      (by rw [hbus]; exact oneHost_tail (hb' ▸ ho)) (by rw [hhw, hbus]), ← windowWrite_withBus]
    rfl

theorem run_one (s : State) : Host.Core.run Sys2Proof.core 1 s = step s := by
  cases h : step s with
  | next t => exact run_succ_of_step h 0
  | fault f => exact run_succ_of_fault h 0
  | refused r => exact run_succ_of_refused h 0

/-- The operands of a line stored one by one are its operands loaded, form by form. -/
theorem storeOperands_lineOperands (l : AsmLine) (s : State) :
    { storeOperands 0 (lineOperands l) s with resp := .ack } = { s with
      resp := .ack,
      arg0 := loaded (lineOperands l)[0]? s.arg0, arg1 := loaded (lineOperands l)[1]? s.arg1,
      arg2 := loaded (lineOperands l)[2]? s.arg2, arg3 := loaded (lineOperands l)[3]? s.arg3,
      arg4 := loaded (lineOperands l)[4]? s.arg4 } := by
  cases l <;> simp [lineOperands, storeOperands, windowWrite, loaded]

theorem length_lineOperands_le (l : AsmLine) : (lineOperands l).length ≤ 5 := by
  cases l <;> simp [lineOperands]

/-- Settles O58: the operand writes store the operands, and the last write runs the line's command. -/
theorem hostWritesOfALineExecuteItsCommand : Obligations.HostWritesOfALineExecuteItsCommand := by
  intro s l ws agent rest hl hws hb ho
  obtain rfl := assembleLine_eq_some hws
  have hbus : s.bus = accesses agent (operandWrites s.hw.base 0 (lineOperands l)) ++
      .access agent (.write s.hw.base 4 (encode (lineInstr l))) :: rest := by
    rw [hb, accesses, List.map_append, List.append_assoc]
    rfl
  have hrun := run_operandWrites 1 (lineOperands l) 0 s (by simpa using length_lineOperands_le l) hl ho hbus
  obtain ⟨hhw, hpending⟩ := storeOperands_program 0 (lineOperands l)
    { s with bus := .access agent (.write s.hw.base 4 (encode (lineInstr l))) :: rest }
  have hcommand := stepRunsTheDecodedCommand _ agent _ (lineInstr l) rest (by rw [hhw]; exact hl)
    (by rw [hpending]; exact oneHost_of_append (hbus ▸ ho)) (by rw [hpending, hhw]) (decode_encode (lineInstr l))
  rw [List.length_append, length_operandWrites, List.length_singleton, Nat.add_comm, hrun, run_one, hcommand]
  exact congrArg (fun u : State => exec (lineInstr l) { u with bus := rest }) (storeOperands_lineOperands l _)

end Sys2Proof.Machine
end
